-- ==== Sys2Proof/Word.lean ====
section
/-! DEFINITION. The word types of the block (spec/00_scope.md R8, R11, R12; spec/10_state.md R24, R29). -/

namespace Sys2Proof

/-- One 8-bit channel sample (R8 `SAMPLE_BITS`, R40). -/
abbrev Byte := BitVec 8

/-- One 32-bit register (R9, R24). -/
abbrev Word := BitVec 32

/-- A payload dimension, 18 bits wide (R8, R29, R30). -/
abbrev Dim := BitVec 18

/-- A header parameter field, 4 bits wide (R8). -/
abbrev Nibble := BitVec 4

end Sys2Proof
end

