-- ==== Sys2Proof/Syntax.lean ====
section
/-! DEFINITION. The six commands (spec/30_encoding.md R74, spec/opcode_table.json), one constructor a row. -/

namespace Sys2Proof

/-- A command with its operands. `bps` and `sf` are the BPS and SF fields, unsigned naturals (R72). HDR_READ and EXTRACT
carry the two fields as well, because any value of them decodes (R85), and their meanings ignore them. -/
inductive Instr where
  /-- R95. -/
  | hdrWrite (bps sf : Nat)
  /-- R96; the fields are ignored. -/
  | hdrRead (bps sf : Nat)
  /-- R108. -/
  | payEncode (bps sf : Nat)
  /-- R112. -/
  | payDecode (bps sf : Nat)
  /-- R120. -/
  | embed (bps sf : Nat)
  /-- R122; the fields are ignored. -/
  | extract (bps sf : Nat)
  deriving DecidableEq, Repr

namespace Instr

/-- The BPS field of the command word (R70). -/
def bps : Instr → Nat
  | .hdrWrite b _ => b
  | .hdrRead b _ => b
  | .payEncode b _ => b
  | .payDecode b _ => b
  | .embed b _ => b
  | .extract b _ => b

/-- The SF field of the command word (R70). -/
def sf : Instr → Nat
  | .hdrWrite _ s => s
  | .hdrRead _ s => s
  | .payEncode _ s => s
  | .payDecode _ s => s
  | .embed _ s => s
  | .extract _ s => s

end Instr
end Sys2Proof
end

