-- ==== Sys2Proof/WellFormed.lean ====
section
/-! DEFINITION. When a command can be written down (spec/30_encoding.md R79): each operand fits its 4-bit field. Whether the
pair is LEGAL is the block's run-time check (spec/60_exceptions.md R133), no matter of form. -/

namespace Sys2Proof
namespace Instr

/-- R72, R79: BPS fits in 4 bits. -/
def bpsFits (i : Instr) : Bool := decide (i.bps ≤ 15)

/-- R72, R79: SF fits in 4 bits. -/
def sfFits (i : Instr) : Bool := decide (i.sf ≤ 15)

/-- R79: "An operand outside 0..15 is an assembler error and encodes nothing." -/
def wf (i : Instr) : Bool := i.bpsFits && i.sfFits

end Instr
end Sys2Proof
end

