-- ==== Sys2Proof/Decode.lean ====
section
/-! DEFINITION. Decoding and encoding the 32-bit command word (spec/30_encoding.md R70 to R75, R79, R84). -/

namespace Sys2Proof

/-- Why a command word is none of the six commands, in the order of R84. -/
inductive Reject where
  /-- R75: OP is 0 or 7..15 (IllegalCommand 1). -/
  | reservedOpcode
  /-- R73: OP is a command's, and a reserved bit is set (IllegalCommand 2). -/
  | reservedBits
  deriving DecidableEq, Repr

/-- What the decoder answers: a command, or a rejection by name. -/
inductive Decoded where
  | command (i : Instr)
  | rejected (r : Reject)
  deriving DecidableEq, Repr

/-- R70: the OP field, bits [3:0]. -/
def fieldOp (w : Word) : Nat := (w.extractLsb' 0 4).toNat

/-- R70, R72: the BPS field, bits [7:4]. -/
def fieldBps (w : Word) : Nat := (w.extractLsb' 4 4).toNat

/-- R70, R72: the SF field, bits [11:8]. -/
def fieldSf (w : Word) : Nat := (w.extractLsb' 8 4).toNat

/-- R70, R73: the reserved field, bits [31:12]. -/
def fieldRes (w : Word) : Nat := (w.extractLsb' 12 20).toNat

/-- R74: the opcode map. -/
def commandOf (op bps sf : Nat) : Option Instr :=
  match op with
  | 1 => some (.hdrWrite bps sf)
  | 2 => some (.hdrRead bps sf)
  | 3 => some (.payEncode bps sf)
  | 4 => some (.payDecode bps sf)
  | 5 => some (.embed bps sf)
  | 6 => some (.extract bps sf)
  | _ => none

/-- R84: the opcode is tested first, then the reserved bits. -/
def decode (w : Word) : Decoded :=
  match commandOf (fieldOp w) (fieldBps w) (fieldSf w) with
  | none => .rejected .reservedOpcode
  | some i => if fieldRes w = 0 then .command i else .rejected .reservedBits

/-- R74: a command's opcode. -/
def Instr.op : Instr → Nat
  | .hdrWrite _ _ => 1
  | .hdrRead _ _ => 2
  | .payEncode _ _ => 3
  | .payDecode _ _ => 4
  | .embed _ _ => 5
  | .extract _ _ => 6

/-- R70: `word = OP | (BPS << 4) | (SF << 8)`; the word of a well-formed command. -/
def encode (i : Instr) : Word :=
  BitVec.ofNat 32 (i.op ||| (i.bps <<< 4) ||| (i.sf <<< 8))

/-- R79: the command has an assembly spelling: HDR_READ and EXTRACT are written without operands, and 0 goes in both fields.
Any other word of theirs is written with `.word`. -/
def Instr.spelled : Instr → Bool
  | .hdrWrite _ _ => true
  | .hdrRead b s => b == 0 && s == 0
  | .payEncode _ _ => true
  | .payDecode _ _ => true
  | .embed _ _ => true
  | .extract b s => b == 0 && s == 0

/-- R79: the assembler, which encodes nothing for an operand outside 0..15. -/
def assemble (i : Instr) : Option Word :=
  if i.wf && i.spelled then some (encode i) else none

/-- The command the decoder reads from the low `nbits` bits of `w`, the bits above them 0. A command is one whole 32-bit
word (R78), so there is no byte order to lay out. -/
def decodeTableWord (nbits w : Nat) : Option Instr :=
  if nbits ≤ 32 then
    match decode (BitVec.ofNat 32 (w % 2 ^ nbits)) with
    | .command i => some i
    | .rejected _ => none
  else none

end Sys2Proof
end

