-- ==== Sys2Proof/Config.lean ====
section
/-! DEFINITION. What is fixed for the block: the format constants (spec/00_scope.md R8), the open placement parameters (R10),
and the values the spec leaves free, as constants without a body (spec/93_implementation_defined.md U6 to U8). -/

namespace Sys2Proof

/-- The three pixel buffers of R20, R42 to R44. -/
inductive BufId where
  | cin
  | pin
  | out
  deriving DecidableEq, Repr

namespace Config

/-- R8: the header takes the first 8 carrier pixels. -/
abbrev headerSize : Nat := 8

/-- R8: a pixel has 3 channels. -/
abbrev channels : Nat := 3

/-- R9, R24, R56: the register window is 64 bytes. -/
abbrev windowBytes : Nat := 64

/-- R10: the open placement parameters. No rule of the spec reads them, and no step of the model does: they are arguments of
the address functions of Machine/Operands.lean alone. Log entry 15. -/
structure Placement where
  regBase : Nat
  cinBase : Nat
  pinBase : Nat
  outBase : Nat
  deriving DecidableEq, Repr

/-- FREE VALUE (R160, U7; log entry 3): what a sample that nothing has written reads as, by the number of resets since
power-on, the buffer and the sample's key. -/
opaque unwrittenSample : (epoch : Nat) → BufId → (key : Nat) → Byte

/-- FREE VALUE (R39, U7; log entry 4): what a written sample holds after a reset, by the number of resets before it, the
buffer, the key and the sample it held. -/
opaque sampleAfterReset : (epoch : Nat) → BufId → (key : Nat) → (old : Byte) → Byte

/-- FREE VALUE (R161, U8; log entry 5): what a sample of OUT inside the extent of a command that a reset abandons holds, by
the number of resets before it, the key, the sample before the command and the sample the command would have written. -/
opaque abandonedSample : (epoch : Nat) → (key : Nat) → (old new : Byte) → Byte

/-- FREE VALUE (R35, R174, U6; log entry 6): what the host gets from reading HDR_W, HDR_H or HDR_PARAMS while BUSY, by the
number of such draws so far, the register's offset and the word the register holds. -/
opaque busyHdrRead : (draws : Nat) → (off : Nat) → (held : Word) → Word

end Config
end Sys2Proof
end

