-- ==== Sys2Proof/Machine/State.lean ====
section
/-! DEFINITION. The state of the block (spec/10_state.md R20, R24, R35; spec/20_memory.md R42 to R44), the agenda that says
which agent moves next (R15), the reasons a step can stop, and the state after reset (R39, R160). -/

namespace Sys2Proof.Machine

/-- A buffer: (key, sample) pairs, keys strictly rising, where sample `j` of pixel `p` has key `3 * p + j` (R47). A key that
is not listed has had no value written since power-on. -/
abbrev Memory := List Host.Cell

/-- R40: three unsigned 8-bit samples. -/
structure Pixel where
  c0 : Byte
  c1 : Byte
  c2 : Byte
  deriving DecidableEq, Repr

/-- R35: the engine's phase. -/
inductive Phase where
  | idle
  | busy
  deriving DecidableEq, Repr

/-- R24: the nine registers of the map. -/
inductive RegName where
  | cmd
  | status
  | carW
  | carH
  | payW
  | payH
  | hdrW
  | hdrH
  | hdrParams
  deriving DecidableEq, Repr

/-- One host operation (R86; R52 for the size of a register access). -/
inductive HostOp where
  /-- A register write of `size` bytes at byte offset `off` from REG_BASE. -/
  | wr (off size : Nat) (data : Word)
  /-- A register read of `size` bytes at byte offset `off`; the host notes the value. -/
  | rd (off size : Nat)
  /-- The host writes pixel `i` of a buffer. -/
  | put (buf : BufId) (i : Nat) (px : Pixel)
  /-- The host reads pixel `i` of a buffer and notes it. -/
  | get (buf : BufId) (i : Nat)
  /-- One pixel of the pseudo-instruction `copy`: get OUT[i], then put CIN[i] that pixel. -/
  | copyOut (i : Nat)
  /-- The pseudo-instruction `wait`: read STATUS until BUSY = 0. -/
  | wait
  deriving DecidableEq, Repr

/-- What happens next, and by whom (R15): a host operation, the engine's turn, or a reset from outside (R160, R161). -/
inductive Event where
  | host (op : HostOp)
  | engine
  | reset
  deriving DecidableEq, Repr

/-- What the host has noted from a read (R86). -/
inductive Note where
  | reg (off : Nat) (value : Word)
  | pixel (buf : BufId) (i : Nat) (px : Pixel)
  deriving DecidableEq, Repr

/-- The machine. The first fourteen fields are the spec's (R20); the last four are the model's own (log entries 1, 3, 6, 7). -/
structure State where
  /-- CMD, the last accepted command word (R25). -/
  cmd : Word
  /-- STATUS, read whole by the host (R26). -/
  status : Word
  /-- CAR_W (R27). -/
  carW : Word
  /-- CAR_H (R28). -/
  carH : Word
  /-- PAY_W, bits [17:0] (R29). -/
  payW : Dim
  /-- PAY_H, bits [17:0] (R30). -/
  payH : Dim
  /-- HDR_W, bits [17:0] (R31). -/
  hdrW : Dim
  /-- HDR_H, bits [17:0] (R32). -/
  hdrH : Dim
  /-- HDR_PARAMS, bits [7:0] (R33). -/
  hdrParams : Byte
  /-- The engine's phase, which STATUS.BUSY mirrors (R35). -/
  phase : Phase
  /-- The carrier input buffer CIN (R42). -/
  cin : Memory
  /-- The payload input buffer PIN (R43). -/
  pin : Memory
  /-- The output buffer OUT (R44). -/
  out : Memory
  /-- Model's own: what is still to happen, first event first (log entry 1). -/
  agenda : List Event
  /-- Model's own: what the host has noted, newest first (log entry 7). -/
  notes : List Note
  /-- Model's own: resets since power-on (log entry 3). -/
  epoch : Nat
  /-- Model's own: HDR_* reads while BUSY so far (log entry 6). -/
  draws : Nat
  deriving DecidableEq, Repr

/-- Why the machine stops with a fault. There is no such reason: every accepted command completes (R82), an error is a
completion (R130), and "No behaviour of the block is `stuck`". Nobody raises one (log entry 9). -/
inductive Fault where
  deriving DecidableEq, Repr

/-- Why the model has no step: the host broke a duty of spec/70_reset_and_hazards.md R172. All are safe: no claim covers such
a host (log entry 11). -/
inductive Refusal where
  /-- Raised by an arm of exec whose command has no meaning yet; safe. None is left. -/
  | notModelled (mnemonic : String)
  /-- Raised by a host register access narrower or wider than 32 bits (R52, U10); safe. -/
  | accessNotOneWord
  /-- Raised by a host register access at an offset that is no multiple of 4 (R52, U10); safe. -/
  | accessMisaligned
  /-- Raised by a host register access at an offset beyond the 64-byte window (R52, R56); safe. -/
  | accessOutsideWindow
  /-- Raised by a host access to a buffer while BUSY (R171, U11); safe. -/
  | bufferAccessWhileBusy
  deriving DecidableEq, Repr

/-- R39, R160: every register 0x00000000, the phase IDLE; no sample written yet, so that every sample is free. The model's
own four fields start empty (log entry 14). -/
def State.reset : State where
  cmd := 0
  status := 0
  carW := 0
  carH := 0
  payW := 0
  payH := 0
  hdrW := 0
  hdrH := 0
  hdrParams := 0
  phase := .idle
  cin := []
  pin := []
  out := []
  agenda := []
  notes := []
  epoch := 0
  draws := 0

end Sys2Proof.Machine
end

