-- ==== Sys2Proof/Machine/Flags.lean ====
section
/-! DEFINITION. Every computation of a STATUS word (spec/10_state.md R26; spec/30_encoding.md R80, R83; spec/60_exceptions.md
R130 to R132). The block has no other flags (R23). -/

namespace Sys2Proof.Machine

/-- R131: the four typed errors. -/
inductive ErrorKind where
  | invalidParameters
  | insufficientCapacity
  | headerInvalid
  | illegalCommand
  deriving DecidableEq, Repr

/-- R131: the error's code in STATUS.ERR. -/
def ErrorKind.code : ErrorKind → Nat
  | .invalidParameters => 1
  | .insufficientCapacity => 2
  | .headerInvalid => 3
  | .illegalCommand => 4

/-- R80: STATUS at acceptance: BUSY = 1, everything else 0. -/
def statusAccepted : Word := 0x00000001

/-- R83: STATUS at a successful completion: DONE = 1, everything else 0. -/
def statusComplete : Word := 0x00000002

/-- R130: STATUS at an error completion: `(1 << 1) | (code(E) << 4) | (d << 8)`. -/
def statusError (e : ErrorKind) (detail : Nat) : Word :=
  BitVec.ofNat 32 ((1 <<< 1) ||| (e.code <<< 4) ||| (detail <<< 8))

/-- R26: STATUS.BUSY, bit 0. -/
def statusBusy (w : Word) : Bool := w.getLsbD 0

/-- R26: STATUS.DONE, bit 1. -/
def statusDone (w : Word) : Bool := w.getLsbD 1

/-- R26: STATUS.ERR, bits [6:4]. -/
def statusErr (w : Word) : Nat := (w.extractLsb' 4 3).toNat

/-- R26: STATUS.DETAIL, bits [11:8]. -/
def statusDetail (w : Word) : Nat := (w.extractLsb' 8 4).toNat

end Sys2Proof.Machine
end

