-- ==== Sys2Proof/Machine/Ops.lean ====
section
/-! DEFINITION. The named operations over the buffers and the registers, the error completion (spec/60_exceptions.md R130)
as one shared operation, and the way back from it, the next accepted CMD write (R137; spec/30_encoding.md R80). -/

namespace Sys2Proof.Machine

/-! ### A buffer -/

/-- The sample written at a key, if one has been written. -/
def Memory.read? : Memory → Nat → Option Byte
  | [], _ => none
  | (a, v) :: m, k => if k = a then some v else Memory.read? m k

/-- Write one sample, keeping the keys strictly rising. -/
def Memory.write : Memory → Nat → Byte → Memory
  | [], k, v => [(k, v)]
  | (a, w) :: m, k, v =>
    if k < a then (k, v) :: (a, w) :: m
    else if k = a then (k, v) :: m
    else (a, w) :: Memory.write m k v

/-- Write every sample at keys `0..n-1`, and leave the others. -/
def Memory.fill (n : Nat) (f : Nat → Byte) (m : Memory) : Memory :=
  (List.range n).map (fun k => (k, f k)) ++ m.filter (fun c => decide (n ≤ c.1))

/-- Change every written sample, each by its key and its value. -/
def Memory.redraw (f : Nat → Byte → Byte) (m : Memory) : Memory :=
  m.map (fun c => (c.1, f c.1 c.2))

/-- The canonical form: keys strictly rising, so that equal contents are equal lists. What an unlisted key reads as is no
stored value (log entry 3), so no entry can equal it. -/
abbrev Memory.wf (m : Memory) : Prop := m.Pairwise (fun x y => x.1 < y.1)

/-! ### Pixels and samples -/

/-- R47: the key of channel `j` of pixel `p`. -/
def sampleKey (p j : Nat) : Nat := 3 * p + j

/-- Channel `j` of a pixel (R40); a pixel has channels 0, 1 and 2. -/
def Pixel.channel (px : Pixel) : Nat → Byte
  | 0 => px.c0
  | 1 => px.c1
  | _ => px.c2

/-- The buffer of a name. -/
def State.buffer (s : State) : BufId → Memory
  | .cin => s.cin
  | .pin => s.pin
  | .out => s.out

/-- Replace the buffer of a name. -/
def State.setBuffer (s : State) (b : BufId) (m : Memory) : State :=
  match b with
  | .cin => { s with cin := m }
  | .pin => { s with pin := m }
  | .out => { s with out := m }

/-- R13: `CIN[i].c[j]`, `PIN[i].c[j]`, `OUT[i].c[j]`. A sample that nothing has written reads as a free value (R160, U7; log
entry 3), the same at every read (R55). -/
def State.sample (s : State) (b : BufId) (i j : Nat) : Byte :=
  ((s.buffer b).read? (sampleKey i j)).getD (Config.unwrittenSample s.epoch b (sampleKey i j))

/-- The three samples of a pixel (R53 "handles the 3 samples of a pixel together"). -/
def State.pixel (s : State) (b : BufId) (i : Nat) : Pixel :=
  ⟨s.sample b i 0, s.sample b i 1, s.sample b i 2⟩

/-- R86 `put`: write the three samples of a pixel. -/
def State.putPixel (s : State) (b : BufId) (i : Nat) (px : Pixel) : State :=
  s.setBuffer b
    ((((s.buffer b).write (sampleKey i 0) px.c0).write (sampleKey i 1) px.c1).write (sampleKey i 2) px.c2)

/-- R44: a successful command's write of OUT: `OUT[i].c[j] <- f i j` for every `i` in `0..n-1`, and no other index. -/
def State.writeOut (s : State) (n : Nat) (f : Nat → Nat → Byte) : State :=
  { s with out := s.out.fill (3 * n) (fun k => f (k / 3) (k % 3)) }

/-! ### Completion, error and acceptance -/

/-- R83: successful completion. -/
def State.complete (s : State) : State :=
  { s with status := statusComplete, phase := .idle }

/-- R130: `raise E(d)`, the error completion. The command word that failed stays in CMD (R136). -/
def State.raise (s : State) (e : ErrorKind) (detail : Nat) : State :=
  { s with status := statusError e detail, phase := .idle }

/-- R80: acceptance of a CMD write. It is also the return from an error (R137). -/
def State.acceptCommand (s : State) (w : Word) : State :=
  { s with cmd := w, status := statusAccepted, phase := .busy }

end Sys2Proof.Machine
end

