-- ==== Sys2Proof/Machine/Operands.lean ====
section
/-! DEFINITION. The operands of the commands: the derived names of spec/00_scope.md R14, the parameter check of
spec/60_exceptions.md R133, the run geometry of spec/42_payload_codec.md R107, the register map of spec/10_state.md R24, and the
addresses a platform gives them (R10, R47, R48). -/

namespace Sys2Proof.Machine

/-! ### Derived names -/

/-- R14: the carrier pixel count `CAR_W * CAR_H`, exact (R12). -/
def State.cap (s : State) : Nat := s.carW.toNat * s.carH.toNat

/-- R14: the payload pixel count `N = PAY_W * PAY_H`, exact (R12). -/
def State.payCount (s : State) : Nat := s.payW.toNat * s.payH.toNat

/-- R14: bitsPerPixel `bps div sf`. -/
def bitsPerPixel (bps sf : Nat) : Nat := bps / sf

/-- R133: 0 when `(bps, sf)` is legal, else the DETAIL of InvalidParameters. -/
def checkParams (bps sf : Nat) : Nat :=
  if bps < 1 ∨ 8 < bps then 1
  else if sf < 1 ∨ 8 < sf then 2
  else if bps % sf ≠ 0 then 3
  else 0

/-! ### Geometry -/

/-- R107: the run of carrier pixel `i`, for `i >= 8`. -/
def runOf (sf i : Nat) : Nat := (i - Config.headerSize) / sf

/-- R107: the position of carrier pixel `i` in its run, for `i >= 8`. -/
def runPos (sf i : Nat) : Nat := (i - Config.headerSize) % sf

/-- R107: the carrier pixel at position `k` of run `r`. -/
def runPixel (sf r k : Nat) : Nat := Config.headerSize + r * sf + k

/-- R41: the row of pixel index `i` in a grid of width `w`. -/
def gridRow (w i : Nat) : Nat := i / w

/-- R41: the column of pixel index `i` in a grid of width `w`. -/
def gridCol (w i : Nat) : Nat := i % w

/-- R41: the row-major pixel index. -/
def gridIndex (w row col : Nat) : Nat := row * w + col

/-! ### The register map -/

/-- R24: a register's byte offset. -/
def RegName.offset : RegName → Nat
  | .cmd => 0x00
  | .status => 0x04
  | .carW => 0x08
  | .carH => 0x0C
  | .payW => 0x10
  | .payH => 0x14
  | .hdrW => 0x18
  | .hdrH => 0x1C
  | .hdrParams => 0x20

/-- R24: the register at a byte offset; the offsets 0x24 to 0x3C are reserved and hold none (R34). -/
def regAt (off : Nat) : Option RegName :=
  match off with
  | 0x00 => some .cmd
  | 0x04 => some .status
  | 0x08 => some .carW
  | 0x0C => some .carH
  | 0x10 => some .payW
  | 0x14 => some .payH
  | 0x18 => some .hdrW
  | 0x1C => some .hdrH
  | 0x20 => some .hdrParams
  | _ => none

/-- The 32-bit word a register holds; the bits it does not store are 0 (R26, R29 to R33, U5). -/
def State.regWord (s : State) : RegName → Word
  | .cmd => s.cmd
  | .status => s.status
  | .carW => s.carW
  | .carH => s.carH
  | .payW => s.payW.setWidth 32
  | .payH => s.payH.setWidth 32
  | .hdrW => s.hdrW.setWidth 32
  | .hdrH => s.hdrH.setWidth 32
  | .hdrParams => s.hdrParams.setWidth 32

/-- R31 to R33, R35: the registers whose value is unspecified while BUSY. -/
def RegName.freeWhileBusy : RegName → Bool
  | .cmd => false
  | .status => false
  | .carW => false
  | .carH => false
  | .payW => false
  | .payH => false
  | .hdrW => true
  | .hdrH => true
  | .hdrParams => true

/-! ### Where a platform puts them (arguments, R10) -/

/-- R24, R86: the address of the register word at an offset. -/
def regAddress (pl : Config.Placement) (off : Nat) : Nat := pl.regBase + off

/-- R48: byte lane `k` of a register word, least significant byte first. -/
def regLane (w : Word) (k : Nat) : Byte := (w >>> (8 * k)).setWidth 8

/-- R10: the placement base of a buffer. -/
def bufferBase (pl : Config.Placement) : BufId → Nat
  | .cin => pl.cinBase
  | .pin => pl.pinBase
  | .out => pl.outBase

/-- R47: the byte address of channel `j` of pixel `p` of a buffer. -/
def sampleAddress (pl : Config.Placement) (b : BufId) (p j : Nat) : Nat := bufferBase pl b + sampleKey p j

/-- R24, R56: a host access at an address is a register access of the block exactly when it falls in the 64-byte window; then
this is its offset. -/
def windowOffset (pl : Config.Placement) (addr : Nat) : Option Nat :=
  if pl.regBase ≤ addr ∧ addr < pl.regBase + Config.windowBytes then some (addr - pl.regBase) else none

end Sys2Proof.Machine
end

