-- ==== Sys2Proof/Machine/HeaderCodec.lean ====
section
/-! DEFINITION. The Header Codec: HDR_WRITE and HDR_READ (spec/41_header_codec.md R90 to R96; the slot map of
spec/30_encoding.md R76, R77). -/

namespace Sys2Proof.Machine

/-! ### Helpers -/

/-- R90: the 2-bit value the header holds in pixel `p`, channel `j`, or none where there is no slot. -/
def hdrSlot (p j : Nat) (w h : Dim) (b s : Nat) : Option (BitVec 2) :=
  if p ≤ 2 then some ((w >>> (p * 6 + j * 2)).setWidth 2)
  else if p ≤ 5 then some ((h >>> ((p - 3) * 6 + j * 2)).setWidth 2)
  else if p = 6 ∧ j < 2 then some (BitVec.ofNat 2 (b >>> (j * 2)))
  else if p = 7 ∧ j < 2 then some (BitVec.ofNat 2 (s >>> (j * 2)))
  else none

/-- R77, R91: replace the low 2 bits of a carrier sample by a slot's chunk; without a slot it is copied. -/
def overlaySample (c : Byte) : Option (BitVec 2) → Byte
  | none => c
  | some chunk => (c &&& 0xFC) ||| chunk.setWidth 8

/-- R91: what hdrOverlay writes to `OUT[p].c[j]`, `p` in 0..7. -/
def State.hdrOverlay (st : State) (w h : Dim) (b s : Nat) (p j : Nat) : Byte :=
  overlaySample (st.sample .cin p j) (hdrSlot p j w h b s)

/-- R92: the four fields of a header. -/
structure Header where
  w : Dim
  h : Dim
  b : Nibble
  s : Nibble
  deriving DecidableEq, Repr

/-- R92: the low 2 bits of a carrier sample, `CIN[p].c[j] & 3`. -/
def State.hdrChunk (st : State) (p j : Nat) : BitVec 2 := (st.sample .cin p j).setWidth 2

/-- R92: an 18-bit dimension OR-assembled from three pixels starting at pixel `base`. -/
def State.hdrDim (st : State) (base : Nat) : Dim :=
  (List.range 3).foldl (fun acc p =>
    (List.range 3).foldl (fun acc j =>
      acc ||| ((st.hdrChunk (base + p) j).setWidth 18 <<< (p * 6 + j * 2))) acc) 0

/-- R92: a 4-bit parameter OR-assembled from channels 0 and 1 of pixel `p`. -/
def State.hdrParam (st : State) (p : Nat) : Nibble :=
  (st.hdrChunk p 0).setWidth 4 ||| ((st.hdrChunk p 1).setWidth 4 <<< 2)

/-- R92: hdrExtract. -/
def State.hdrExtract (st : State) : Header :=
  ⟨st.hdrDim 0, st.hdrDim 3, st.hdrParam 6, st.hdrParam 7⟩

/-- R93: headerCheck, for `cap >= 8`: 0 when the header passes, else the DETAIL of the first condition that holds. -/
def headerCheck (w h b s cap : Nat) : Nat :=
  if cap - 8 < w * h then 2
  else if 8 < s then 3
  else if 8 < b then 4
  else if b = 0 then 5
  else if s = 0 then 6
  else if b % s ≠ 0 then 7
  else if cap - 8 < w * h * s then 8
  else 0

/-- R96, R122: write the raw decoded values to HDR_W, HDR_H and HDR_PARAMS, before validation. -/
def State.loadHeader (st : State) : State :=
  { st with
    hdrW := st.hdrExtract.w
    hdrH := st.hdrExtract.h
    hdrParams := st.hdrExtract.b.setWidth 8 ||| (st.hdrExtract.s.setWidth 8 <<< 4) }

/-- R96, R122: the DETAIL of the header in CIN, 0 when it passes. -/
def State.headerDetail (st : State) : Nat :=
  headerCheck st.hdrExtract.w.toNat st.hdrExtract.h.toNat st.hdrExtract.b.toNat st.hdrExtract.s.toNat st.cap

/-! ### The commands -/

/-- R95: HDR_WRITE. -/
def execHdrWrite (bps sf : Nat) (s : State) : Host.Outcome State Fault Refusal :=
  if checkParams bps sf ≠ 0 then .next (s.raise .invalidParameters (checkParams bps sf))
  else if s.cap < Config.headerSize then .next (s.raise .insufficientCapacity 1)
  else
    .next (s.writeOut s.cap (fun i j =>
      if i < Config.headerSize then s.hdrOverlay s.payW s.payH bps sf i j else s.sample .cin i j)).complete

/-- R96: HDR_READ. The BPS and SF fields are ignored (R85). -/
def execHdrRead (_bps _sf : Nat) (s : State) : Host.Outcome State Fault Refusal :=
  if s.cap < Config.headerSize then .next (s.raise .headerInvalid 1)
  else if s.headerDetail ≠ 0 then .next (s.loadHeader.raise .headerInvalid s.headerDetail)
  else .next s.loadHeader.complete

end Sys2Proof.Machine
end

