-- ==== Sys2Proof/Machine/PayloadCodec.lean ====
section
/-! DEFINITION. The Payload Codec: PAY_ENCODE and PAY_DECODE (spec/42_payload_codec.md R105 to R113). -/

namespace Sys2Proof.Machine

/-! ### Arithmetic of one sample -/

/-- R12: `mask(n) = (1 << n) - 1`. -/
def lowMask (n : Nat) : Nat := (1 <<< n) - 1

/-- R105: chunk `k` of payload sample `v`, most significant chunk first. -/
def chunk (bpp : Nat) (v : Byte) (k : Nat) : Byte :=
  (v >>> (8 - (k + 1) * bpp)) &&& BitVec.ofNat 8 (lowMask bpp)

/-- R106: carrier sample `c` at run position `k` carrying payload sample `v`. -/
def encChannel (bpp : Nat) (c v : Byte) (k : Nat) : Byte :=
  (c &&& ((0xFF : Byte) <<< bpp)) ||| chunk bpp v k

/-- R110, the loop: steps 1 and 2 for every position but the last, steps 1 and 3 for the last. -/
def gatherLoop (b bpp : Nat) : Nat → List Byte → Nat
  | acc, [] => acc
  | acc, [x] => (acc ||| (x.toNat &&& lowMask bpp)) <<< (8 - b)
  | acc, x :: xs => gatherLoop b bpp ((acc ||| (x.toNat &&& lowMask bpp)) <<< bpp) xs

/-- R110: one payload sample rebuilt from the carrier samples of a run, masked to 8 bits. -/
def gather (b s : Nat) (xs : List Byte) : Byte :=
  BitVec.ofNat 8 (gatherLoop b (bitsPerPixel b s) 0 xs)

/-! ### Whole buffers -/

/-- R108, R120: what carrier pixel `i >= 8`, channel `j`, becomes: its run's payload sample spread into it, or a copy once the
payload is exhausted (R109). -/
def State.spreadSample (st : State) (bps sf i j : Nat) : Byte :=
  if runOf sf i < st.payCount then
    encChannel (bitsPerPixel bps sf) (st.sample .cin i j) (st.sample .pin (runOf sf i) j) (runPos sf i)
  else st.sample .cin i j

/-- R113: what payGather writes to `OUT[r].c[j]`. -/
def State.gatherSample (st : State) (b s r j : Nat) : Byte :=
  gather b s ((List.range s).map (fun k => st.sample .cin (runPixel s r k) j))

/-- R113: payGather writes `n` payload pixels to OUT. -/
def State.payGather (st : State) (n b s : Nat) : State :=
  st.writeOut n (fun r j => st.gatherSample b s r j)

/-! ### The commands -/

/-- R108: PAY_ENCODE. There is no capacity check (R109, R164). -/
def execPayEncode (bps sf : Nat) (s : State) : Host.Outcome State Fault Refusal :=
  if checkParams bps sf ≠ 0 then .next (s.raise .invalidParameters (checkParams bps sf))
  else
    .next (s.writeOut s.cap (fun i j =>
      if i < Config.headerSize then s.sample .cin i j else s.spreadSample bps sf i j)).complete

/-- R112: PAY_DECODE. -/
def execPayDecode (bps sf : Nat) (s : State) : Host.Outcome State Fault Refusal :=
  if checkParams bps sf ≠ 0 then .next (s.raise .invalidParameters (checkParams bps sf))
  else if s.cap < Config.headerSize + s.payCount * sf then .next (s.raise .insufficientCapacity 2)
  else .next (s.payGather s.payCount bps sf).complete

end Sys2Proof.Machine
end

