-- ==== Sys2Proof/Machine/EmbedExtract.lean ====
section
/-! DEFINITION. EMBED and EXTRACT (spec/43_embed_extract.md R120, R122). -/

namespace Sys2Proof.Machine

/-- R120: EMBED. -/
def execEmbed (bps sf : Nat) (s : State) : Host.Outcome State Fault Refusal :=
  if checkParams bps sf ≠ 0 then .next (s.raise .invalidParameters (checkParams bps sf))
  else if s.cap < Config.headerSize + s.payCount * sf then .next (s.raise .insufficientCapacity 2)
  else
    .next (s.writeOut s.cap (fun i j =>
      if i < Config.headerSize then s.hdrOverlay s.payW s.payH bps sf i j
      else s.spreadSample bps sf i j)).complete

/-- R122: EXTRACT. The BPS and SF fields are ignored (R85), and PAY_W and PAY_H are not read. -/
def execExtract (_bps _sf : Nat) (s : State) : Host.Outcome State Fault Refusal :=
  if s.cap < Config.headerSize then .next (s.raise .headerInvalid 1)
  else if s.headerDetail ≠ 0 then .next (s.loadHeader.raise .headerInvalid s.headerDetail)
  else
    .next (s.loadHeader.payGather (s.hdrExtract.w.toNat * s.hdrExtract.h.toNat)
      s.hdrExtract.b.toNat s.hdrExtract.s.toNat).complete

end Sys2Proof.Machine
end

