-- ==== Sys2Proof/Machine/Dispatch.lean ====
section
/-! DEFINITION. One arm per command (spec/30_encoding.md R84). -/

namespace Sys2Proof.Machine

def exec (i : Instr) (s : State) : Host.Outcome State Fault Refusal :=
  match i with
  | .hdrWrite bps sf => Sys2Proof.Machine.execHdrWrite bps sf s
  | .hdrRead bps sf => Sys2Proof.Machine.execHdrRead bps sf s
  | .payEncode bps sf => Sys2Proof.Machine.execPayEncode bps sf s
  | .payDecode bps sf => Sys2Proof.Machine.execPayDecode bps sf s
  | .embed bps sf => Sys2Proof.Machine.execEmbed bps sf s
  | .extract bps sf => Sys2Proof.Machine.execExtract bps sf s

end Sys2Proof.Machine
end

