-- ==== Sys2Proof/Machine/HostAgent.lean ====
section
/-! DEFINITION. The host's operations (spec/30_encoding.md R86; spec/10_state.md R24 to R35; spec/20_memory.md R52, R55;
spec/70_reset_and_hazards.md R171, R172), and the host-program statements that expand into them. -/

namespace Sys2Proof.Machine

/-! ### Register accesses -/

/-- R52, R56, R172: the refusal of a register access that is not an aligned 32-bit one inside the window. -/
def accessRefusal (off size : Nat) : Option Refusal :=
  if size ≠ 4 then some .accessNotOneWord
  else if off % 4 ≠ 0 then some .accessMisaligned
  else if Config.windowBytes ≤ off then some .accessOutsideWindow
  else none

/-- A 32-bit write to a register. CMD accepts a command while IDLE (R80) and drops the write while BUSY (R81); CAR_* and
PAY_* take it while IDLE (R27 to R30) and ignore it while BUSY (R35); the others ignore it (R26, R31 to R33). -/
def State.writeReg (s : State) (r : RegName) (w : Word) : State :=
  match s.phase with
  | .busy => s
  | .idle =>
    match r with
    | .cmd => s.acceptCommand w
    | .status => s
    | .carW => { s with carW := w }
    | .carH => { s with carH := w }
    | .payW => { s with payW := w.setWidth 18 }
    | .payH => { s with payH := w.setWidth 18 }
    | .hdrW => s
    | .hdrH => s
    | .hdrParams => s

/-- A 32-bit write at an offset of the window; a reserved offset ignores it (R34). -/
def State.writeOffset (s : State) (off : Nat) (w : Word) : State :=
  match regAt off with
  | some r => s.writeReg r w
  | none => s

/-- R31 to R33, R35: whether a read of this offset now returns an unspecified value. -/
def State.readIsFree (s : State) (off : Nat) : Bool :=
  match regAt off with
  | some r => r.freeWhileBusy && decide (s.phase = .busy)
  | none => false

/-- What a 32-bit read at an offset of the window returns: the register's word, a free value for HDR_* while BUSY (R35; log
entry 6), or 0 for a reserved offset (R34). -/
def State.readOffset (s : State) (off : Nat) : Word :=
  match regAt off with
  | some r => if s.readIsFree off then Config.busyHdrRead s.draws off (s.regWord r) else s.regWord r
  | none => 0

/-! ### The host's own record -/

/-- R86: the host notes what it read. -/
def State.note (s : State) (n : Note) : State := { s with notes := n :: s.notes }

/-- R86 `rd`: the host notes the word. Nothing of the block changes (R55); a free value counts as drawn. -/
def State.readAndNote (s : State) (off : Nat) : State :=
  { s.note (.reg off (s.readOffset off)) with draws := if s.readIsFree off then s.draws + 1 else s.draws }

/-- R86 `wait`: one turn of the polling loop. A poll that sees BUSY = 1 leaves the engine its turn before the next one
(R82 "eventually"; log entry 13). -/
def State.poll (s : State) : State :=
  { s.readAndNote 0x04 with agenda := if statusBusy s.status then .engine :: .host .wait :: s.agenda else s.agenda }

/-! ### One host operation -/

/-- One operation of the host, its event already off the agenda. Buffers are the host's only while IDLE (R171). -/
def hostStep (op : HostOp) (s : State) : Host.Outcome State Fault Refusal :=
  match op with
  | .wr off size w =>
    match accessRefusal off size with
    | some r => .refused r
    | none => .next (s.writeOffset off w)
  | .rd off size =>
    match accessRefusal off size with
    | some r => .refused r
    | none => .next (s.readAndNote off)
  | .put b i px =>
    match s.phase with
    | .busy => .refused .bufferAccessWhileBusy
    | .idle => .next (s.putPixel b i px)
  | .get b i =>
    match s.phase with
    | .busy => .refused .bufferAccessWhileBusy
    | .idle => .next (s.note (.pixel b i (s.pixel b i)))
  | .copyOut i =>
    match s.phase with
    | .busy => .refused .bufferAccessWhileBusy
    | .idle => .next ((s.note (.pixel .out i (s.pixel .out i))).putPixel .cin i (s.pixel .out i))
  | .wait => .next s.poll

/-! ### Host programs (R86) -/

/-- The statements of R86. -/
inductive HostStmt where
  | wr (r : RegName) (imm : Word)
  | rd (r : RegName)
  | put (b : BufId) (i : Nat) (px : Pixel)
  | get (i : Nat)
  | cmd (i : Instr)
  | word (w : Word)
  | wait
  | fill (b : BufId) (first last : Nat) (px : Pixel)
  | copy (first last : Nat)
  deriving DecidableEq, Repr

/-- R13: the indices `a..b` in increasing order; none when `b < a`. -/
def indices (a b : Nat) : List Nat := (List.range (b + 1 - a)).map (fun k => a + k)

/-- R86: a statement's expansion into host operations. -/
def HostStmt.expand : HostStmt → List HostOp
  | .wr r imm => [.wr r.offset 4 imm]
  | .rd r => [.rd r.offset 4]
  | .put b i px => [.put b i px]
  | .get i => [.get .out i]
  | .cmd i => (assemble i).toList.map (fun w => .wr RegName.cmd.offset 4 w)
  | .word w => [.wr RegName.cmd.offset 4 w]
  | .wait => [.wait]
  | .fill b first last px => (indices first last).map (fun i => .put b i px)
  | .copy first last => (indices first last).map (fun i => .copyOut i)

/-- The agenda of a host program. -/
def hostProgram (p : List HostStmt) : List Event :=
  p.flatMap (fun st => st.expand.map Event.host)

end Sys2Proof.Machine
end

