-- ==== Sys2Proof/Machine/Engine.lean ====
section
/-! DEFINITION. The engine's step (spec/30_encoding.md R82, R84), reset from outside (spec/70_reset_and_hazards.md R160, R161),
and one event of the agenda (spec/00_scope.md R15). -/

namespace Sys2Proof.Machine

/-! ### The engine -/

/-- R82, R84: decode the word in CMD and run the command to its end. An illegal word completes with IllegalCommand. -/
def engineStep (s : State) : Host.Outcome State Fault Refusal :=
  match decode s.cmd with
  | .command i => exec i s
  | .rejected .reservedOpcode => .next (s.raise .illegalCommand 1)
  | .rejected .reservedBits => .next (s.raise .illegalCommand 2)

/-- The engine's turn: it moves while BUSY and has nothing to do while IDLE (R35, R146). -/
def engineTurn (s : State) : Host.Outcome State Fault Refusal :=
  match s.phase with
  | .busy => engineStep s
  | .idle => .next s

/-! ### Reset -/

/-- R45: the OUT extent of a successful command. -/
def outExtent (i : Instr) (s : State) : Nat :=
  match i with
  | .hdrWrite _ _ => s.cap
  | .hdrRead _ _ => 0
  | .payEncode _ _ => s.cap
  | .payDecode _ _ => s.payCount
  | .embed _ _ => s.cap
  | .extract _ _ => s.hdrExtract.w.toNat * s.hdrExtract.h.toNat

/-- R161, U8: OUT once a reset has abandoned command `i`, where `t` is the state the command would have left: each sample of
its extent is free (log entry 5). A command that would have failed writes no OUT (R44). -/
def State.abandonedOut (s : State) (i : Instr) (t : State) : Memory :=
  if t.status = statusComplete then
    s.out.fill (3 * outExtent i s) (fun k =>
      Config.abandonedSample s.epoch k (s.sample .out (k / 3) (k % 3)) (t.sample .out (k / 3) (k % 3)))
  else s.out

/-- R161: OUT at a reset: as it is while IDLE, the abandoned command's extent free while BUSY. -/
def State.outAtReset (s : State) : Memory :=
  match s.phase with
  | .idle => s.out
  | .busy =>
    match decode s.cmd with
    | .rejected _ => s.out
    | .command i =>
      match exec i s with
      | .next t => s.abandonedOut i t
      | .fault _ => s.out
      | .refused _ => s.out

/-- R39, R160, R161: a reset after power-on. The registers and the phase take their reset values; what the buffers hold is
unspecified until the host writes them (U7; log entry 4). The host's agenda and notes are its own. -/
def State.resetBlock (s : State) : State :=
  { State.reset with
    cin := s.cin.redraw (Config.sampleAfterReset s.epoch .cin)
    pin := s.pin.redraw (Config.sampleAfterReset s.epoch .pin)
    out := s.outAtReset.redraw (Config.sampleAfterReset s.epoch .out)
    agenda := s.agenda
    notes := s.notes
    epoch := s.epoch + 1
    draws := s.draws }

/-! ### One event -/

/-- Take the first event off the agenda. -/
def State.popAgenda (s : State) : State := { s with agenda := s.agenda.tail }

/-- R15, R82, R146: the agenda says who moves. When it has run out, a BUSY engine moves and an IDLE block waits (log entry 1). -/
def stepAgenda (s : State) : Host.Outcome State Fault Refusal :=
  match s.agenda with
  | [] => engineTurn s
  | .engine :: _ => engineTurn s.popAgenda
  | .host op :: _ => hostStep op s.popAgenda
  | .reset :: _ => .next s.popAgenda.resetBlock

/-- The state just after a CMD write of `w` has been accepted (R80), with the engine's turn next. -/
def State.issueForEngine (s : State) (w : Word) : State :=
  { s.acceptCommand w with agenda := .engine :: s.agenda }

end Sys2Proof.Machine
end

