-- ==== Sys2Proof/Machine/Step.lean ====
section
/-! DEFINITION. One step of the machine, and how the host places a command in it (log entry 2). -/

namespace Sys2Proof.Machine

/-- One step: the first event of the agenda (Machine/Engine.lean, `stepAgenda`). -/
def step (s : State) : Host.Outcome State Fault Refusal := stepAgenda s

/-- The block fetches nothing (spec/10_state.md R22): its program is the sequence of accepted CMD writes. So this is the
acceptance (R80) of the command word whose low `nbits` bits are `w`'s, with the engine's turn next. -/
def State.withFetchWord (s : State) (nbits w : Nat) : State :=
  s.issueForEngine (BitVec.ofNat 32 (w % 2 ^ nbits))

end Sys2Proof.Machine
end

