-- ==== Sys2Proof/Machine/Run.lean ====
section
/-! DEFINITION. What ends a run of a host program and what is observed then (spec/70_reset_and_hazards.md R181; log entry
19). -/

namespace Sys2Proof.Machine

/-- The event is a host operation. -/
def Event.isHost : Event → Bool
  | .host _ => true
  | .engine => false
  | .reset => false

/-- R181: the host has executed its last statement: no host operation is still to come. Turns of the engine and resets are no
statements of the host. -/
def State.hostDone (s : State) : Bool := s.agenda.all (fun e => !e.isHost)

/-- R181: the run has ended: the host has executed its last statement and the engine is IDLE. -/
def State.runEnded (s : State) : Bool := s.hostDone && decide (s.phase = .idle)

/-- R24: the registers in the order of the map. -/
def RegName.all : List RegName := [.cmd, .status, .carW, .carH, .payW, .payH, .hdrW, .hdrH, .hdrParams]

/-- R181: what is observed at the end of a run: the register file, CIN, PIN and OUT. -/
structure Observation where
  regs : List (RegName × Word)
  cin : List Pixel
  pin : List Pixel
  out : List Pixel
  deriving DecidableEq, Repr

/-- The pixels `0..n-1` of a buffer. -/
def State.pixels (s : State) (b : BufId) (n : Nat) : List Pixel := (List.range n).map (fun i => s.pixel b i)

/-- R181: the observation, where the host backs `nCin`, `nPin` and `nOut` pixels of the three buffers (R163). -/
def State.observe (s : State) (nCin nPin nOut : Nat) : Observation where
  regs := RegName.all.map (fun r => (r, s.regWord r))
  cin := s.pixels .cin nCin
  pin := s.pixels .pin nPin
  out := s.pixels .out nOut

end Sys2Proof.Machine
end

