-- ==== Sys2Proof/Safety.lean ====
section
/-! DEFINITION. What counts as a safe run, in the terms the statements use: the invariant of the block, a host that keeps its
duties (spec/70_reset_and_hazards.md R172), and the end of a run (R181). -/

namespace Sys2Proof.Safety

open Sys2Proof.Machine

/-- R132: every (ERR, DETAIL) pair an error completion can report. -/
def errorDetails : List (ErrorKind × Nat) :=
  [(.invalidParameters, 1), (.invalidParameters, 2), (.invalidParameters, 3),
   (.insufficientCapacity, 1), (.insufficientCapacity, 2),
   (.headerInvalid, 1), (.headerInvalid, 2), (.headerInvalid, 3), (.headerInvalid, 4),
   (.headerInvalid, 5), (.headerInvalid, 6), (.headerInvalid, 7), (.headerInvalid, 8),
   (.illegalCommand, 1), (.illegalCommand, 2)]

/-- R80, R83, R130, R160: the words STATUS ever holds: 0 after reset, 1 while BUSY, 2 after a success, or an error's. -/
def statusWords : List Word :=
  0 :: statusAccepted :: statusComplete :: errorDetails.map (fun e => statusError e.1 e.2)

/-- The invariant of the block. -/
structure Inv (s : State) : Prop where
  /-- R26, R132: STATUS holds one of its words. -/
  statusLegal : s.status ∈ statusWords
  /-- R35: the phase is mirrored by STATUS.BUSY. -/
  phaseMirrored : s.phase = .busy ↔ statusBusy s.status = true
  /-- R162: STATUS = 0 tells that no command has run since reset. -/
  freshAfterReset : s.status = 0 → s.cmd = 0 ∧ s.hdrW = 0 ∧ s.hdrH = 0 ∧ s.hdrParams = 0
  /-- The buffers keep their canonical form. -/
  cinWf : s.cin.wf
  pinWf : s.pin.wf
  outWf : s.out.wf

/-- R172: in this state the host breaks no duty: the next step is not refused. -/
def DutyKept (s : State) : Prop := ∀ r, step s ≠ .refused r

/-- R172: the host keeps its duties for `k` steps. -/
def DutiesKept : Nat → State → Prop
  | 0, _ => True
  | k + 1, s => DutyKept s ∧ ∀ t, step s = .next t → DutiesKept k t

/-- R181: the run has ended: the host has executed its last statement and the engine is IDLE. -/
def RunEnded (s : State) : Prop := s.runEnded = true

/-- R181: the run that starts in `s` ends in `t`, `k` steps later: `t` is its first state in which the run has ended. A run that
a reset interrupts has no end here, since R181 says nothing about it (log entry 19). -/
structure RunEndsIn (k : Nat) (s t : State) : Prop where
  reaches : Host.Core.run core k s = .next t
  ended : RunEnded t
  first : ∀ j < k, ∀ u : State, Host.Core.run core j s = .next u → ¬ RunEnded u
  uninterrupted : t.epoch = s.epoch

/-- R46, R163, R172: the three backing regions of a placement, of `nCin`, `nPin` and `nOut` pixels, are disjoint. -/
def RegionsDisjoint (pl : Config.Placement) (nCin nPin nOut : Nat) : Prop :=
  (pl.cinBase + 3 * nCin ≤ pl.pinBase ∨ pl.pinBase + 3 * nPin ≤ pl.cinBase) ∧
  (pl.cinBase + 3 * nCin ≤ pl.outBase ∨ pl.outBase + 3 * nOut ≤ pl.cinBase) ∧
  (pl.pinBase + 3 * nPin ≤ pl.outBase ∨ pl.outBase + 3 * nOut ≤ pl.pinBase)

end Sys2Proof.Safety
end

