-- ==== Sys2Proof/Certificates/Slice0/Obligations.lean ====
section
/-! DEFINITION. The statements for the provers. The vocabulary they share comes first; it says bits, ranges and tables in the
spec's own terms and uses none of the model's codec functions. -/

namespace Sys2Proof.Claims

open Sys2Proof Sys2Proof.Machine Sys2Proof.Safety

/-! ### Vocabulary -/

/-- R133: a legal `(bps, sf)`. -/
def LegalPair (bps sf : Nat) : Prop := 1 ≤ bps ∧ bps ≤ 8 ∧ 1 ≤ sf ∧ sf ≤ 8 ∧ bps % sf = 0

/-- R133: the DETAIL of InvalidParameters of an illegal pair, by the first check that fails. -/
def ParamDetail (bps sf d : Nat) : Prop :=
  ((bps < 1 ∨ 8 < bps) ∧ d = 1) ∨
  ((1 ≤ bps ∧ bps ≤ 8) ∧ (sf < 1 ∨ 8 < sf) ∧ d = 2) ∨
  ((1 ≤ bps ∧ bps ≤ 8) ∧ (1 ≤ sf ∧ sf ≤ 8) ∧ bps % sf ≠ 0 ∧ d = 3)

/-- R93: the verdict on a header, 0 when it passes, else the DETAIL of the first condition that holds. -/
def HeaderVerdict (w h b s cap d : Nat) : Prop :=
  (cap - 8 < w * h ∧ d = 2) ∨
  (w * h ≤ cap - 8 ∧ 8 < s ∧ d = 3) ∨
  (w * h ≤ cap - 8 ∧ s ≤ 8 ∧ 8 < b ∧ d = 4) ∨
  (w * h ≤ cap - 8 ∧ s ≤ 8 ∧ b = 0 ∧ d = 5) ∨
  (w * h ≤ cap - 8 ∧ 1 ≤ b ∧ b ≤ 8 ∧ s = 0 ∧ d = 6) ∨
  (w * h ≤ cap - 8 ∧ 1 ≤ b ∧ b ≤ 8 ∧ 1 ≤ s ∧ s ≤ 8 ∧ b % s ≠ 0 ∧ d = 7) ∨
  (w * h ≤ cap - 8 ∧ 1 ≤ b ∧ b ≤ 8 ∧ 1 ≤ s ∧ s ≤ 8 ∧ b % s = 0 ∧ cap - 8 < w * h * s ∧ d = 8) ∨
  (1 ≤ b ∧ b ≤ 8 ∧ 1 ≤ s ∧ s ≤ 8 ∧ b % s = 0 ∧ w * h * s ≤ cap - 8 ∧ w * h ≤ cap - 8 ∧ d = 0)

/-- R76, the slot map: the header slots of pixels 0..7 of a buffer hold `w`, `h`, `b` and `s`. -/
def HeaderHeld (st : State) (buf : BufId) (w h b s : Nat) : Prop :=
  w < 2 ^ 18 ∧ h < 2 ^ 18 ∧ b < 2 ^ 4 ∧ s < 2 ^ 4 ∧
  (∀ p j c, p < 3 → j < 3 → c < 2 → (st.sample buf p j).getLsbD c = w.testBit (6 * p + 2 * j + c)) ∧
  (∀ p j c, p < 3 → j < 3 → c < 2 → (st.sample buf (3 + p) j).getLsbD c = h.testBit (6 * p + 2 * j + c)) ∧
  (∀ j c, j < 2 → c < 2 → (st.sample buf 6 j).getLsbD c = b.testBit (2 * j + c)) ∧
  (∀ j c, j < 2 → c < 2 → (st.sample buf 7 j).getLsbD c = s.testBit (2 * j + c))

/-- R76: bit `c` of channel `j` of pixel `i` is part of a header slot. -/
def SlotBit (i j c : Nat) : Prop := c < 2 ∧ (i < 6 ∨ ((i = 6 ∨ i = 7) ∧ j < 2))

/-- R105, R106: `out` is carrier sample `c` with the chunk of payload sample `v` for position `k` in its low `bpp` bits. -/
def Spread (bpp k : Nat) (c v out : Byte) : Prop :=
  (∀ x, x < bpp → out.getLsbD x = v.getLsbD (8 - (k + 1) * bpp + x)) ∧
  (∀ x, bpp ≤ x → out.getLsbD x = c.getLsbD x)

/-- R110, R113: `v` is the payload sample gathered from channel `j` of run `r` of CIN. -/
def Gathered (st : State) (b s r j : Nat) (v : Byte) : Prop :=
  (∀ k x, k < s → x < b / s →
    v.getLsbD (8 - (k + 1) * (b / s) + x) = (st.sample .cin (8 + r * s + k) j).getLsbD x) ∧
  (∀ x, x < 8 - b → v.getLsbD x = false)

/-- What no command changes: CMD, CAR_*, PAY_*, CIN, PIN (every sample of them), and the model's own fields. -/
def CommandFrame (s t : State) : Prop :=
  t.cmd = s.cmd ∧ t.carW = s.carW ∧ t.carH = s.carH ∧ t.payW = s.payW ∧ t.payH = s.payH ∧
  t.cin = s.cin ∧ t.pin = s.pin ∧
  (∀ i j, t.sample .cin i j = s.sample .cin i j) ∧ (∀ i j, t.sample .pin i j = s.sample .pin i j) ∧
  t.agenda = s.agenda ∧ t.notes = s.notes ∧ t.epoch = s.epoch ∧ t.draws = s.draws

/-- HDR_W, HDR_H and HDR_PARAMS are unchanged. -/
def HdrSame (s t : State) : Prop := t.hdrW = s.hdrW ∧ t.hdrH = s.hdrH ∧ t.hdrParams = s.hdrParams

/-- HDR_W, HDR_H and HDR_PARAMS hold these values (R31 to R33). -/
def HdrHolds (t : State) (w h b s : Nat) : Prop :=
  t.hdrW.toNat = w ∧ t.hdrH.toNat = h ∧ t.hdrParams.toNat = b + 16 * s

/-- R83: the state is that of a successful completion. -/
def Succeeded (t : State) : Prop := t.status = 0x00000002 ∧ t.phase = .idle

/-- R130: the state is that of an error completion with this code and DETAIL. -/
def Failed (t : State) (code d : Nat) : Prop :=
  t.status = BitVec.ofNat 32 (2 + 16 * code + 256 * d) ∧ t.phase = .idle

/-- The command ends with this error and changes nothing but STATUS and the phase; OUT reads as before at every sample. -/
def FailsClean (i : Instr) (s : State) (code d : Nat) : Prop :=
  ∃ t, exec i s = .next t ∧ Failed t code d ∧ CommandFrame s t ∧ HdrSame s t ∧ t.out = s.out ∧
    ∀ p j, t.sample .out p j = s.sample .out p j

/-- OUT outside pixels `0..n-1` reads as before (R44). -/
def OutBeyond (s t : State) (n : Nat) : Prop :=
  ∀ i j, j < 3 → n ≤ i → t.sample .out i j = s.sample .out i j

/-- The agenda (the model's own field, log entry 1) gives the engine the next turn. -/
def EngineNext (s : State) : Prop := s.agenda = [] ∨ ∃ rest, s.agenda = .engine :: rest

/-- The agenda (the model's own field, log entry 1) gives the host the next turn, with this operation. -/
def HostNext (s : State) (op : HostOp) : Prop := ∃ rest, s.agenda = .host op :: rest

/-- No host operation is still to come. -/
def NoHostLeft (agenda : List Event) : Prop := ∀ op, Event.host op ∉ agenda

/-- R52: an offset of the register window. -/
def WindowOffset (off : Nat) : Prop := off % 4 = 0 ∧ off < 64

/-- The host has copied OUT[0..cap-1] of `t` into CIN, which gives `u`, with CAR_W and CAR_H as they were (R175, the
pseudo-instruction `copy`). -/
def CarrierCopied (t u : State) : Prop :=
  u.carW = t.carW ∧ u.carH = t.carH ∧
  ∀ i j, i < t.cap → j < 3 → u.sample .cin i j = t.sample .out i j

/-- PAY_W and PAY_H are as they were. -/
def PaySame (t u : State) : Prop := u.payW = t.payW ∧ u.payH = t.payH

/-- PAY_W and PAY_H and the payload in PIN are as they were. -/
def PayloadKept (t u : State) : Prop :=
  PaySame t u ∧ ∀ r j, r < t.payCount → j < 3 → u.sample .pin r j = t.sample .pin r j

/-- Everything but the agenda and the host's own record (notes, draws) is as before. -/
def BlockSame (s t : State) : Prop :=
  t.cmd = s.cmd ∧ t.status = s.status ∧ t.carW = s.carW ∧ t.carH = s.carH ∧ t.payW = s.payW ∧ t.payH = s.payH ∧
  t.hdrW = s.hdrW ∧ t.hdrH = s.hdrH ∧ t.hdrParams = s.hdrParams ∧ t.phase = s.phase ∧
  t.cin = s.cin ∧ t.pin = s.pin ∧ t.out = s.out ∧ t.epoch = s.epoch

/-- The registers and the phase are as before (buffers aside). -/
def RegsSame (s t : State) : Prop :=
  t.cmd = s.cmd ∧ t.status = s.status ∧ t.carW = s.carW ∧ t.carH = s.carH ∧ t.payW = s.payW ∧ t.payH = s.payH ∧
  t.hdrW = s.hdrW ∧ t.hdrH = s.hdrH ∧ t.hdrParams = s.hdrParams ∧ t.phase = s.phase ∧ t.epoch = s.epoch

end Sys2Proof.Claims

open Sys2Proof Sys2Proof.Machine Sys2Proof.Safety Sys2Proof.Claims

/-! ### Encoding -/

/-- R70, R72, R74: decoding the word of a well-formed command gives it back, every operand at every value. -/
def Obligations.DecodeEncodeAgree : Prop :=
  ∀ i : Instr, i.wf = true → decode (encode i) = .command i

/-- R70, R73, R74: a word that decodes has exactly one spelling: no bit of it is dropped. -/
def Obligations.EncodeDecodeAgree : Prop :=
  ∀ (w : Word) (i : Instr), decode w = .command i → i.wf = true ∧ encode i = w

/-- R70, R79: the assembler encodes exactly the operands 0..15, none of them for HDR_READ and EXTRACT, as
`OP + 16 * BPS + 256 * SF`. -/
def Obligations.AssemblerEncodesFourBitOperands : Prop :=
  ∀ (i : Instr) (w : Word),
    assemble i = some w ↔
      i.bps ≤ 15 ∧ i.sf ≤ 15 ∧ (i.op = 2 ∨ i.op = 6 → i.bps = 0 ∧ i.sf = 0) ∧
        w = BitVec.ofNat 32 (i.op + 16 * i.bps + 256 * i.sf)

/-- R87 and spec/95_test_vectors.md part 2: words written out from the encoding decode to the commands they stand for. -/
def Obligations.WrittenWordsDecode : Prop :=
  decode 0x00000225 = .command (.embed 2 2) ∧ decode 0x00000361 = .command (.hdrWrite 6 3) ∧
  decode 0x00000283 = .command (.payEncode 8 2) ∧ decode 0x00000364 = .command (.payDecode 6 3) ∧
  decode 0x00000255 = .command (.embed 5 2) ∧ decode 0x00000002 = .command (.hdrRead 0 0) ∧
  decode 0x00000006 = .command (.extract 0 0) ∧ decode 0x00001005 = .rejected .reservedBits

/-! ### The engine's step -/

/-- A step runs the decoded command: with the engine's turn next and BUSY, the step is the command's meaning at the state
with that turn taken off the agenda (R82, R84). -/
def Obligations.StepRunsDecodedCommand : Prop :=
  ∀ (s : State) (i : Instr), EngineNext s → s.phase = .busy → decode s.cmd = .command i →
    step s = exec i { s with agenda := s.agenda.tail }

/-- R75, R84: the decode order. The command is read from the fields of CMD; an opcode outside 1..6 completes with
IllegalCommand 1; a legal opcode with a bit of [31:12] set completes with IllegalCommand 2; nothing but STATUS and the
phase changes.
The agenda is the model's own (log entry 1), and that the opcode comes before the reserved bits is log entry 17. -/
def Obligations.StepFollowsDecodeOrder : Prop :=
  ∀ s : State, EngineNext s → s.phase = .busy →
    ((s.cmd.toNat % 16 = 0 ∨ 7 ≤ s.cmd.toNat % 16) →
      step s = .next { s with status := 0x00000142, phase := .idle, agenda := s.agenda.tail }) ∧
    ((1 ≤ s.cmd.toNat % 16 ∧ s.cmd.toNat % 16 ≤ 6) → s.cmd.toNat / 4096 ≠ 0 →
      step s = .next { s with status := 0x00000242, phase := .idle, agenda := s.agenda.tail }) ∧
    (∀ i : Instr, i.op = s.cmd.toNat % 16 → i.bps = s.cmd.toNat / 16 % 16 → i.sf = s.cmd.toNat / 256 % 16 →
      s.cmd.toNat / 4096 = 0 → step s = exec i { s with agenda := s.agenda.tail })

/-- R82, R42, R43: whatever word was accepted, the engine's step completes it: BUSY clears, DONE sets, the phase is IDLE, and
no input of the block, no host register and no field of the host changes. -/
def Obligations.EngineStepCompletes : Prop :=
  ∀ s : State, EngineNext s → s.phase = .busy →
    ∃ t, step s = .next t ∧ t.phase = .idle ∧ t.status.getLsbD 0 = false ∧ t.status.getLsbD 1 = true ∧
      CommandFrame { s with agenda := s.agenda.tail } t

/-- R24 (the column "Written by the engine"), R31 to R33: HDR_W, HDR_H and HDR_PARAMS change only when the engine runs
HDR_READ or EXTRACT, or at a reset. -/
def Obligations.HdrRegistersChangeOnlyOnHeaderRead : Prop :=
  ∀ s t : State, step s = .next t → ¬ HdrSame s t →
    (EngineNext s ∧ s.phase = .busy ∧ (s.cmd.toNat % 16 = 2 ∨ s.cmd.toNat % 16 = 6) ∧ s.cmd.toNat / 4096 = 0) ∨
    ∃ rest, s.agenda = .reset :: rest

/-! ### InvalidParameters and capacity -/

/-- R133: the legal pairs are exactly these 20. -/
def Obligations.LegalPairsAreTheTwenty : Prop :=
  ∀ bps sf : Nat, checkParams bps sf = 0 ↔
    (bps, sf) ∈ [(1,1), (2,1), (2,2), (3,1), (3,3), (4,1), (4,2), (4,4), (5,1), (5,5), (6,1), (6,2), (6,3), (6,6),
      (7,1), (7,7), (8,1), (8,2), (8,4), (8,8)]

/-- R133, R134: an illegal pair ends HDR_WRITE, PAY_ENCODE, PAY_DECODE and EMBED with InvalidParameters, with the DETAIL of the
first check that fails, before anything else is checked or written. -/
def Obligations.IllegalPairsFail : Prop :=
  ∀ (bps sf d : Nat) (s : State), ParamDetail bps sf d →
    FailsClean (.hdrWrite bps sf) s 1 d ∧ FailsClean (.payEncode bps sf) s 1 d ∧
    FailsClean (.payDecode bps sf) s 1 d ∧ FailsClean (.embed bps sf) s 1 d

/-- R95, R112, R120, R132: with a legal pair, HDR_WRITE fails with InsufficientCapacity 1 when `cap < 8`, and PAY_DECODE and
EMBED fail with InsufficientCapacity 2 when `cap < 8 + N*sf`. -/
def Obligations.SmallCarriersFail : Prop :=
  ∀ (bps sf : Nat) (s : State), LegalPair bps sf →
    (s.carW.toNat * s.carH.toNat < 8 → FailsClean (.hdrWrite bps sf) s 2 1) ∧
    (s.carW.toNat * s.carH.toNat < 8 + s.payW.toNat * s.payH.toNat * sf →
      FailsClean (.payDecode bps sf) s 2 2 ∧ FailsClean (.embed bps sf) s 2 2)

/-- R124: a carrier of exactly `8 + W*H*sf` pixels succeeds, and one pixel fewer fails with InsufficientCapacity 2. -/
def Obligations.EmbedCapacityBoundary : Prop :=
  ∀ (bps sf : Nat) (s : State), LegalPair bps sf →
    (s.carW.toNat * s.carH.toNat = 8 + s.payW.toNat * s.payH.toNat * sf →
      ∃ t, exec (.embed bps sf) s = .next t ∧ Succeeded t) ∧
    (s.carW.toNat * s.carH.toNat = 8 + s.payW.toNat * s.payH.toNat * sf - 1 → FailsClean (.embed bps sf) s 2 2)

/-! ### The Header Codec -/

/-- R76, R77, R95: with a legal pair and `cap >= 8`, HDR_WRITE completes; OUT holds the header in its slots, every other bit of
OUT[0..cap-1] equals CIN's, and nothing else changes. -/
def Obligations.HdrWriteRecordsHeader : Prop :=
  ∀ (bps sf : Nat) (s : State), LegalPair bps sf → 8 ≤ s.carW.toNat * s.carH.toNat →
    ∃ t, exec (.hdrWrite bps sf) s = .next t ∧ Succeeded t ∧
      HeaderHeld t .out s.payW.toNat s.payH.toNat bps sf ∧
      (∀ i j c, i < s.carW.toNat * s.carH.toNat → j < 3 → ¬ SlotBit i j c →
        (t.sample .out i j).getLsbD c = (s.sample .cin i j).getLsbD c) ∧
      OutBeyond s t (s.carW.toNat * s.carH.toNat) ∧ CommandFrame s t ∧ HdrSame s t

/-- R92: the header slots of any CIN hold exactly one `(w, h, b, s)`, and hdrExtract is it. -/
def Obligations.HdrExtractReadsSlots : Prop :=
  ∀ (st : State) (w h b s : Nat), HeaderHeld st .cin w h b s ↔
    st.hdrExtract.w.toNat = w ∧ st.hdrExtract.h.toNat = h ∧ st.hdrExtract.b.toNat = b ∧ st.hdrExtract.s.toNat = s

/-- R93: headerCheck is the verdict: the first condition that holds decides. -/
def Obligations.HeaderCheckReportsFirstCondition : Prop :=
  ∀ w h b s cap d : Nat, 8 ≤ cap → (headerCheck w h b s cap = d ↔ HeaderVerdict w h b s cap d)

/-- R96: with `cap >= 8`, HDR_READ writes the header CIN holds to HDR_*, and completes successfully when the verdict is 0 and
with HeaderInvalid of that DETAIL otherwise; OUT and everything else stay. -/
def Obligations.HdrReadReportsHeader : Prop :=
  ∀ (x y w h b s d : Nat) (st : State), 8 ≤ st.carW.toNat * st.carH.toNat → HeaderHeld st .cin w h b s →
    HeaderVerdict w h b s (st.carW.toNat * st.carH.toNat) d →
    ∃ t, exec (.hdrRead x y) st = .next t ∧ (d = 0 → Succeeded t) ∧ (d ≠ 0 → Failed t 3 d) ∧
      HdrHolds t w h b s ∧ CommandFrame st t ∧ t.out = st.out ∧
      ∀ i j, t.sample .out i j = st.sample .out i j

/-- R96, R122, R132: on a carrier of fewer than 8 pixels HDR_READ and EXTRACT fail with HeaderInvalid 1, and HDR_* keep their
values. -/
def Obligations.ShortCarrierHasNoHeader : Prop :=
  ∀ (x y : Nat) (s : State), s.carW.toNat * s.carH.toNat < 8 →
    FailsClean (.hdrRead x y) s 3 1 ∧ FailsClean (.extract x y) s 3 1

/-- R97: after HDR_WRITE and a copy of OUT to CIN, hdrExtract returns exactly what was recorded, whatever the carrier held, and
HDR_READ reports it in HDR_*. -/
def Obligations.HeaderRoundTrip : Prop :=
  ∀ (bps sf x y : Nat) (s : State), LegalPair bps sf → 8 ≤ s.carW.toNat * s.carH.toNat →
    ∃ t, exec (.hdrWrite bps sf) s = .next t ∧
      ∀ u, CarrierCopied t u →
        (u.hdrExtract.w = s.payW ∧ u.hdrExtract.h = s.payH ∧ u.hdrExtract.b.toNat = bps ∧ u.hdrExtract.s.toNat = sf) ∧
        ∃ v, exec (.hdrRead x y) u = .next v ∧ HdrHolds v s.payW.toNat s.payH.toNat bps sf

/-- R92: what a header read reports depends on nothing but CAR_W, CAR_H and the slot bits of CIN: the high bits of the slot
channels, channel 2 of pixels 6 and 7, PAY_W, PAY_H and PIN never affect it. -/
def Obligations.HeaderReadSeesOnlySlotBits : Prop :=
  ∀ (x y : Nat) (s s' : State), s'.carW = s.carW → s'.carH = s.carH → 8 ≤ s.carW.toNat * s.carH.toNat →
    (∀ i j c, i < 8 → j < 3 → SlotBit i j c → (s'.sample .cin i j).getLsbD c = (s.sample .cin i j).getLsbD c) →
    ∃ t t', exec (.hdrRead x y) s = .next t ∧ exec (.hdrRead x y) s' = .next t' ∧ HdrSame t t' ∧ t'.status = t.status

/-! ### The Payload Codec -/

/-- R105: chunk `k` is bits `[bps-(k+1)*bpp, bps-k*bpp)` of the top-`bps`-bit value of the sample, most significant first. -/
def Obligations.ChunksAreTopBitsInOrder : Prop :=
  ∀ (bps sf k : Nat) (v : Byte), LegalPair bps sf → k < sf →
    (chunk (bitsPerPixel bps sf) v k).toNat =
      (v.toNat / 2 ^ (8 - bps)) / 2 ^ (bps - (k + 1) * (bps / sf)) % 2 ^ (bps / sf)

/-- R111: the closed form of gather, always below 256. -/
def Obligations.GatherClosedForm : Prop :=
  ∀ (b s : Nat) (xs : List Byte), LegalPair b s → xs.length = s →
    (gather b s xs).toNat =
      ((List.range s).map (fun k => ((xs.getD k 0).toNat % 2 ^ (b / s)) * 2 ^ ((b / s) * (s - 1 - k)))).sum * 2 ^ (8 - b) ∧
    ((List.range s).map (fun k => ((xs.getD k 0).toNat % 2 ^ (b / s)) * 2 ^ ((b / s) * (s - 1 - k)))).sum * 2 ^ (8 - b) < 256

/-- R114: a sample spread over one run and gathered comes back with its low `8 - bps` bits zeroed, whatever the carrier was. -/
def Obligations.SpreadThenGatherKeepsTopBits : Prop :=
  ∀ (bps sf : Nat) (v : Byte) (carrier : Nat → Byte), LegalPair bps sf →
    gather bps sf ((List.range sf).map (fun k => encChannel (bitsPerPixel bps sf) (carrier k) v k)) =
      v &&& ((0xFF : Byte) <<< (8 - bps))

/-- R115: the round trip is exact for every sample exactly when `bps = 8`. -/
def Obligations.RoundTripExactIffEightBits : Prop :=
  ∀ bps sf : Nat, LegalPair bps sf →
    ((∀ (v : Byte) (carrier : Nat → Byte),
      gather bps sf ((List.range sf).map (fun k => encChannel (bitsPerPixel bps sf) (carrier k) v k)) = v) ↔ bps = 8)

/-- R107, R108: with a legal pair PAY_ENCODE completes on every carrier; header pixels and pixels past the payload are copied,
each other carrier pixel carries its chunk, and nothing else changes. -/
def Obligations.PayEncodeSpreadsPayload : Prop :=
  ∀ (bps sf : Nat) (s : State), LegalPair bps sf →
    ∃ t, exec (.payEncode bps sf) s = .next t ∧ Succeeded t ∧
      (∀ i j, i < s.carW.toNat * s.carH.toNat → j < 3 →
        ((i < 8 ∨ s.payW.toNat * s.payH.toNat ≤ (i - 8) / sf) → t.sample .out i j = s.sample .cin i j) ∧
        (8 ≤ i → (i - 8) / sf < s.payW.toNat * s.payH.toNat →
          Spread (bps / sf) ((i - 8) % sf) (s.sample .cin i j) (s.sample .pin ((i - 8) / sf) j) (t.sample .out i j))) ∧
      OutBeyond s t (s.carW.toNat * s.carH.toNat) ∧ CommandFrame s t ∧ HdrSame s t

/-- R112, R113: with a legal pair and `cap >= 8 + N*sf` PAY_DECODE completes; OUT[0..N-1] is gathered from the runs, and nothing
else changes. -/
def Obligations.PayDecodeGathersPayload : Prop :=
  ∀ (bps sf : Nat) (s : State), LegalPair bps sf →
    8 + s.payW.toNat * s.payH.toNat * sf ≤ s.carW.toNat * s.carH.toNat →
    ∃ t, exec (.payDecode bps sf) s = .next t ∧ Succeeded t ∧
      (∀ r j, r < s.payW.toNat * s.payH.toNat → j < 3 → Gathered s bps sf r j (t.sample .out r j)) ∧
      OutBeyond s t (s.payW.toNat * s.payH.toNat) ∧ CommandFrame s t ∧ HdrSame s t

/-- R109: under-encoding. When the carrier ends before the payload, the payload pixels `r >= ceil((cap - 8) / sf)` are never
read: two states that differ in those alone give the same OUT. -/
def Obligations.UnreachedPayloadIsNotRead : Prop :=
  ∀ (bps sf : Nat) (s s' : State), LegalPair bps sf →
    s'.carW = s.carW → s'.carH = s.carH → s'.payW = s.payW → s'.payH = s.payH →
    (∀ i j, j < 3 → s'.sample .cin i j = s.sample .cin i j) →
    (∀ r j, j < 3 → 8 + r * sf < s.carW.toNat * s.carH.toNat → s'.sample .pin r j = s.sample .pin r j) →
    ∃ t t', exec (.payEncode bps sf) s = .next t ∧ exec (.payEncode bps sf) s' = .next t' ∧ t'.status = t.status ∧
      ∀ i j, i < s.carW.toNat * s.carH.toNat → j < 3 → t'.sample .out i j = t.sample .out i j

/-- R117: run independence. Each OUT sample PAY_ENCODE writes depends on the CIN sample at its index and one PIN sample; each
OUT sample PAY_DECODE writes depends on the CIN samples of its run. -/
def Obligations.RunsAreIndependent : Prop :=
  ∀ (bps sf i j : Nat) (s s' : State), LegalPair bps sf → j < 3 →
    s'.carW = s.carW → s'.carH = s.carH → s'.payW = s.payW → s'.payH = s.payH →
    (i < s.carW.toNat * s.carH.toNat → s'.sample .cin i j = s.sample .cin i j →
      s'.sample .pin ((i - 8) / sf) j = s.sample .pin ((i - 8) / sf) j →
      ∃ t t', exec (.payEncode bps sf) s = .next t ∧ exec (.payEncode bps sf) s' = .next t' ∧
        t'.sample .out i j = t.sample .out i j) ∧
    (8 + s.payW.toNat * s.payH.toNat * sf ≤ s.carW.toNat * s.carH.toNat → i < s.payW.toNat * s.payH.toNat →
      (∀ k, k < sf → s'.sample .cin (8 + i * sf + k) j = s.sample .cin (8 + i * sf + k) j) →
      ∃ t t', exec (.payDecode bps sf) s = .next t ∧ exec (.payDecode bps sf) s' = .next t' ∧
        t'.sample .out i j = t.sample .out i j)

/-! ### EMBED and EXTRACT -/

/-- R120: with a legal pair and `cap >= 8 + N*sf` EMBED completes; OUT holds the header in its slots and the payload's chunks
in its runs, every other bit of OUT[0..cap-1] equals CIN's, and nothing else changes. -/
def Obligations.EmbedWritesHeaderAndPayload : Prop :=
  ∀ (bps sf : Nat) (s : State), LegalPair bps sf →
    8 + s.payW.toNat * s.payH.toNat * sf ≤ s.carW.toNat * s.carH.toNat →
    ∃ t, exec (.embed bps sf) s = .next t ∧ Succeeded t ∧
      HeaderHeld t .out s.payW.toNat s.payH.toNat bps sf ∧
      (∀ i j c, i < 8 → j < 3 → ¬ SlotBit i j c → (t.sample .out i j).getLsbD c = (s.sample .cin i j).getLsbD c) ∧
      (∀ i j, 8 ≤ i → i < s.carW.toNat * s.carH.toNat → j < 3 →
        ((i - 8) / sf < s.payW.toNat * s.payH.toNat →
          Spread (bps / sf) ((i - 8) % sf) (s.sample .cin i j) (s.sample .pin ((i - 8) / sf) j) (t.sample .out i j)) ∧
        (s.payW.toNat * s.payH.toNat ≤ (i - 8) / sf → t.sample .out i j = s.sample .cin i j)) ∧
      OutBeyond s t (s.carW.toNat * s.carH.toNat) ∧ CommandFrame s t ∧ HdrSame s t

/-- R122: when the header CIN holds passes, EXTRACT completes: HDR_* hold it, OUT[0..w*h-1] is gathered from the runs, and
nothing else changes. -/
def Obligations.ExtractGathersByHeader : Prop :=
  ∀ (x y w h b s : Nat) (st : State), 8 ≤ st.carW.toNat * st.carH.toNat → HeaderHeld st .cin w h b s →
    HeaderVerdict w h b s (st.carW.toNat * st.carH.toNat) 0 →
    ∃ t, exec (.extract x y) st = .next t ∧ Succeeded t ∧ HdrHolds t w h b s ∧
      (∀ r j, r < w * h → j < 3 → Gathered st b s r j (t.sample .out r j)) ∧
      OutBeyond st t (w * h) ∧ CommandFrame st t

/-- R122, R130: when the header fails, EXTRACT fails with HeaderInvalid of that DETAIL; HDR_* hold the decoded values, and OUT and
everything else stay. -/
def Obligations.ExtractFailsOnBadHeader : Prop :=
  ∀ (x y w h b s d : Nat) (st : State), 8 ≤ st.carW.toNat * st.carH.toNat → HeaderHeld st .cin w h b s →
    HeaderVerdict w h b s (st.carW.toNat * st.carH.toNat) d → d ≠ 0 →
    ∃ t, exec (.extract x y) st = .next t ∧ Failed t 3 d ∧ HdrHolds t w h b s ∧ CommandFrame st t ∧ t.out = st.out ∧
      ∀ i j, t.sample .out i j = st.sample .out i j

/-- R85: HDR_READ and EXTRACT ignore the BPS and SF fields, and the assembler writes 0 in both. -/
def Obligations.HeaderReadersIgnoreParameterFields : Prop :=
  ∀ (x y x' y' : Nat) (s : State) (w : Word),
    exec (.hdrRead x y) s = exec (.hdrRead x' y') s ∧ exec (.extract x y) s = exec (.extract x' y') s ∧
    (assemble (.hdrRead x y) = some w → w = 0x00000002) ∧ (assemble (.extract x y) = some w → w = 0x00000006)

/-- R121: when the capacity check passes, EMBED equals HDR_WRITE, a copy of OUT to CIN, and PAY_ENCODE with the same PAY_W, PAY_H
and payload: the final OUT is the same, over the carrier whatever became of OUT meanwhile, and everywhere if OUT stayed. -/
def Obligations.EmbedIsHeaderThenPayload : Prop :=
  ∀ (bps sf : Nat) (s : State), LegalPair bps sf →
    8 + s.payW.toNat * s.payH.toNat * sf ≤ s.carW.toNat * s.carH.toNat →
    ∃ t e, exec (.hdrWrite bps sf) s = .next t ∧ Succeeded t ∧ exec (.embed bps sf) s = .next e ∧ Succeeded e ∧
      ∀ u, CarrierCopied t u → PayloadKept t u → ∃ v, exec (.payEncode bps sf) u = .next v ∧ Succeeded v ∧
        (∀ i j, i < s.carW.toNat * s.carH.toNat → j < 3 → v.sample .out i j = e.sample .out i j) ∧
        ((∀ i j, j < 3 → u.sample .out i j = t.sample .out i j) →
          ∀ i j, j < 3 → v.sample .out i j = e.sample .out i j)

/-- R123: the embed-extract round trip. When EMBED completes successfully and its OUT is copied to CIN, EXTRACT completes
successfully, HDR_* hold EMBED's dimensions and parameters, and every sample comes back with its low `8 - bps` bits zeroed, so
exactly the samples whose low `8 - bps` bits were 0 come back as they were: all of them when `bps = 8`. -/
def Obligations.EmbedThenExtractRecovers : Prop :=
  ∀ (bps sf x y : Nat) (s t u : State), exec (.embed bps sf) s = .next t → Succeeded t → CarrierCopied t u →
    ∃ v, exec (.extract x y) u = .next v ∧ Succeeded v ∧ HdrHolds v s.payW.toNat s.payH.toNat bps sf ∧
      ∀ r j, r < s.payW.toNat * s.payH.toNat → j < 3 →
        v.sample .out r j = s.sample .pin r j &&& ((0xFF : Byte) <<< (8 - bps)) ∧
        (v.sample .out r j = s.sample .pin r j ↔ (s.sample .pin r j).toNat % 2 ^ (8 - bps) = 0)

/-- R125: PAY_DECODE on an EMBED output, given that EMBED's W, H, bps and sf, writes the same OUT[0..N-1] as EXTRACT. -/
def Obligations.PayDecodeAgreesWithExtract : Prop :=
  ∀ (bps sf x y : Nat) (s t u : State), exec (.embed bps sf) s = .next t → Succeeded t → CarrierCopied t u → PaySame t u →
    ∃ v v', exec (.payDecode bps sf) u = .next v ∧ exec (.extract x y) u = .next v' ∧ Succeeded v ∧ Succeeded v' ∧
      ∀ r j, r < s.payW.toNat * s.payH.toNat → j < 3 → v.sample .out r j = v'.sample .out r j

/-- R135: errors (and successes) are deterministic: the same command at the state it left answers that state again, so it
reports the same ERR and DETAIL. -/
def Obligations.RepeatedCommandRepeats : Prop :=
  ∀ (i : Instr) (s t : State), exec i s = .next t → exec i t = .next t

/-! ### The host's register accesses -/

/-- R80: a CMD write while IDLE is accepted: CMD takes the word, STATUS becomes 0x00000001 and the phase BUSY, and nothing else
changes. -/
def Obligations.CmdWriteWhileIdleIsAccepted : Prop :=
  ∀ (s : State) (w : Word), HostNext s (.wr 0x00 4 w) → s.phase = .idle →
    step s = .next { s with cmd := w, status := 0x00000001, phase := .busy, agenda := s.agenda.tail }

/-- R35, R81: a write to any register of the window while BUSY changes nothing. -/
def Obligations.WritesWhileBusyAreIgnored : Prop :=
  ∀ (s : State) (off : Nat) (w : Word), HostNext s (.wr off 4 w) → WindowOffset off → s.phase = .busy →
    step s = .next { s with agenda := s.agenda.tail }

/-- R27 to R30: while IDLE, CAR_W and CAR_H take all 32 bits of a write, PAY_W and PAY_H its low 18. -/
def Obligations.DimensionWritesWhileIdle : Prop :=
  ∀ (s : State) (w : Word), s.phase = .idle →
    (HostNext s (.wr 0x08 4 w) → step s = .next { s with carW := w, agenda := s.agenda.tail }) ∧
    (HostNext s (.wr 0x0C 4 w) → step s = .next { s with carH := w, agenda := s.agenda.tail }) ∧
    (HostNext s (.wr 0x10 4 w) →
      step s = .next { s with payW := BitVec.ofNat 18 (w.toNat % 2 ^ 18), agenda := s.agenda.tail }) ∧
    (HostNext s (.wr 0x14 4 w) →
      step s = .next { s with payH := BitVec.ofNat 18 (w.toNat % 2 ^ 18), agenda := s.agenda.tail })

/-- R26, R31 to R34: in both phases a write to STATUS, HDR_W, HDR_H, HDR_PARAMS or a reserved offset changes nothing. -/
def Obligations.ReadOnlyAndReservedIgnoreWrites : Prop :=
  ∀ (s : State) (off : Nat) (w : Word), HostNext s (.wr off 4 w) → WindowOffset off → (off = 0x04 ∨ 0x18 ≤ off) →
    step s = .next { s with agenda := s.agenda.tail }

/-- R24 to R34: what the host notes from a 32-bit read while IDLE, offset by offset: the register's word, with 0 in the bits it
does not store, and 0 at a reserved offset. The block does not change.
The host's notes are the model's own field (log entry 7). -/
def Obligations.ReadsWhileIdleReturnTheRegister : Prop :=
  ∀ (s : State) (off : Nat), HostNext s (.rd off 4) → WindowOffset off → s.phase = .idle →
    ∃ t v, step s = .next t ∧ t.notes = .reg off v :: s.notes ∧ BlockSame s t ∧ t.agenda = s.agenda.tail ∧
      (off = 0x00 → v = s.cmd) ∧ (off = 0x04 → v = s.status) ∧ (off = 0x08 → v = s.carW) ∧ (off = 0x0C → v = s.carH) ∧
      (off = 0x10 → v.toNat = s.payW.toNat) ∧ (off = 0x14 → v.toNat = s.payH.toNat) ∧
      (off = 0x18 → v.toNat = s.hdrW.toNat) ∧ (off = 0x1C → v.toNat = s.hdrH.toNat) ∧
      (off = 0x20 → v.toNat = s.hdrParams.toNat) ∧ (0x24 ≤ off → v = 0)

/-- R34, R35: while BUSY a read of CMD, STATUS, CAR_* or PAY_* returns the current value and a reserved offset 0; a read of
HDR_* returns some word, of which nothing is said. The block does not change.
The host's notes are the model's own field (log entry 7). -/
def Obligations.ReadsWhileBusy : Prop :=
  ∀ (s : State) (off : Nat), HostNext s (.rd off 4) → WindowOffset off → s.phase = .busy →
    ∃ t v, step s = .next t ∧ t.notes = .reg off v :: s.notes ∧ BlockSame s t ∧ t.agenda = s.agenda.tail ∧
      (off = 0x00 → v = s.cmd) ∧ (off = 0x04 → v = s.status) ∧ (off = 0x08 → v = s.carW) ∧ (off = 0x0C → v = s.carH) ∧
      (off = 0x10 → v.toNat = s.payW.toNat) ∧ (off = 0x14 → v.toNat = s.payH.toNat) ∧ (0x24 ≤ off → v = 0)

/-- R55: two reads of one register with nothing between them note the same value, but for HDR_* while BUSY.
The host's notes are the model's own field (log entry 7). -/
def Obligations.RegisterReadsAreIdempotent : Prop :=
  ∀ (s : State) (off : Nat) (rest : List Event), s.agenda = .host (.rd off 4) :: .host (.rd off 4) :: rest →
    WindowOffset off → (s.phase = .idle ∨ off < 0x18 ∨ 0x24 ≤ off) →
    ∃ t u v, step s = .next t ∧ step t = .next u ∧ u.notes = .reg off v :: .reg off v :: s.notes ∧ BlockSame s u

/-- R52, R171, R172: a register access that is not one aligned word of the window, and a buffer access while BUSY, have no
step: each is refused by name.
The names, their order and the refusal outside the window are the model's (log entry 11). -/
def Obligations.BrokenDutiesAreRefused : Prop :=
  ∀ (s : State) (off size i : Nat) (w : Word) (b : BufId) (px : Pixel),
    ((HostNext s (.wr off size w) ∨ HostNext s (.rd off size)) →
      (size ≠ 4 → step s = .refused .accessNotOneWord) ∧
      (size = 4 → off % 4 ≠ 0 → step s = .refused .accessMisaligned) ∧
      (size = 4 → off % 4 = 0 → 64 ≤ off → step s = .refused .accessOutsideWindow)) ∧
    (s.phase = .busy → (HostNext s (.put b i px) ∨ HostNext s (.get b i) ∨ HostNext s (.copyOut i)) →
      step s = .refused .bufferAccessWhileBusy)

/-! ### The host's buffer accesses and statements -/

/-- R86, R47: while IDLE, `put` writes the three samples of its pixel and no other sample of any buffer, and `get` notes the
three samples of its pixel and changes nothing else.
That all three buffers may be put and got is the model's reading (log entry 12). -/
def Obligations.PutAndGetOnePixel : Prop :=
  ∀ (s : State) (b : BufId) (p : Nat) (px : Pixel), s.phase = .idle →
    (HostNext s (.put b p px) → ∃ t, step s = .next t ∧ RegsSame s t ∧ t.agenda = s.agenda.tail ∧
      t.sample b p 0 = px.c0 ∧ t.sample b p 1 = px.c1 ∧ t.sample b p 2 = px.c2 ∧
      ∀ c i j, j < 3 → (c ≠ b ∨ i ≠ p) → t.sample c i j = s.sample c i j) ∧
    (HostNext s (.get b p) → ∃ t, step s = .next t ∧ BlockSame s t ∧ t.agenda = s.agenda.tail ∧
      t.notes = .pixel b p ⟨s.sample b p 0, s.sample b p 1, s.sample b p 2⟩ :: s.notes)

/-- R86, R175: run while IDLE, the statement `copy OUT[first..last] -> CIN` takes one step a pixel and leaves CIN equal to OUT at
those pixels, every other sample of every buffer and every register as before.
That one pixel of `copy` is one step is the model's choice (log entry 13). -/
def Obligations.CopyStatementCopies : Prop :=
  ∀ (first last : Nat) (rest : List Event) (s : State), s.phase = .idle →
    s.agenda = hostProgram [.copy first last] ++ rest →
    ∃ t : State, Host.Core.run core (last + 1 - first) s = .next t ∧ t.agenda = rest ∧ RegsSame s t ∧
      (∀ i j, j < 3 → first ≤ i → i ≤ last → t.sample .cin i j = s.sample .out i j) ∧
      (∀ i j, j < 3 → (i < first ∨ last < i) → t.sample .cin i j = s.sample .cin i j) ∧
      (∀ i j, j < 3 → t.sample .pin i j = s.sample .pin i j ∧ t.sample .out i j = s.sample .out i j)

/-- R86, R82: `wait` while BUSY ends: the host polls, the engine completes the command, and the host's next poll sees it and goes
on to what follows. The engine's turn between two polls is the model's choice (log entry 13). -/
def Obligations.WaitEndsWithCompletion : Prop :=
  ∀ (s : State) (rest : List Event), Inv s → s.phase = .busy → s.agenda = .host .wait :: rest →
    ∃ t u v, step s = .next t ∧ step t = .next u ∧ step u = .next v ∧
      t.phase = .busy ∧ u.phase = .idle ∧ v.phase = .idle ∧ v.agenda = rest ∧
      v.notes = .reg 0x04 u.status :: .reg 0x04 0x00000001 :: s.notes

/-! ### Reset and whole-machine rules -/

/-- R39, R160: what reset leaves. -/
def Obligations.ResetState : Prop :=
  State.reset.cmd = 0 ∧ State.reset.status = 0 ∧ State.reset.carW = 0 ∧ State.reset.carH = 0 ∧ State.reset.payW = 0 ∧
  State.reset.payH = 0 ∧ State.reset.hdrW = 0 ∧ State.reset.hdrH = 0 ∧ State.reset.hdrParams = 0 ∧
  State.reset.phase = .idle

/-- R160, R161: a reset at any time, also while BUSY, puts every register at 0 and the phase at IDLE; nothing is said of the
buffers.
The agenda and the notes are the model's own fields (log entries 1 and 7). -/
def Obligations.ResetAtAnyTime : Prop :=
  ∀ (s : State) (rest : List Event), s.agenda = .reset :: rest →
    ∃ t, step s = .next t ∧ t.cmd = 0 ∧ t.status = 0 ∧ t.carW = 0 ∧ t.carH = 0 ∧ t.payW = 0 ∧ t.payH = 0 ∧
      t.hdrW = 0 ∧ t.hdrH = 0 ∧ t.hdrParams = 0 ∧ t.phase = .idle ∧ t.agenda = rest ∧ t.notes = s.notes

/-- The invariant of Safety.lean holds at reset. -/
def Obligations.InvariantAtReset : Prop := Inv State.reset

/-- Every step keeps the invariant: STATUS one of its legal words, the phase mirrored by BUSY, STATUS = 0 only with no command
run, the buffers canonical (R26, R35, R132, R162). -/
def Obligations.StepKeepsInvariant : Prop :=
  ∀ s t : State, Inv s → step s = .next t → Inv t

/-- R26, R162: BUSY and DONE are never both 1, reserved bits read 0, ERR is at most 4, DETAIL is 0 when ERR is 0, and STATUS = 0
is the only state with BUSY = 0 and DONE = 0. -/
def Obligations.StatusFieldsAreLegal : Prop :=
  ∀ s : State, Inv s →
    ¬ (s.status.getLsbD 0 = true ∧ s.status.getLsbD 1 = true) ∧
    s.status.toNat / 4 % 4 = 0 ∧ s.status.toNat / 128 % 2 = 0 ∧ s.status.toNat / 4096 = 0 ∧
    s.status.toNat / 16 % 8 ≤ 4 ∧ (s.status.toNat / 16 % 8 = 0 → s.status.toNat / 256 % 16 = 0) ∧
    (s.status.getLsbD 0 = false → s.status.getLsbD 1 = false → s.status = 0)

/-- R146, R162: while IDLE with nothing to come, the block waits: nothing changes.
The agenda is the model's own field (log entry 1). -/
def Obligations.IdleBlockWaits : Prop :=
  ∀ s : State, s.agenda = [] → s.phase = .idle → step s = .next s

/-- R146: the block leaves IDLE only through an accepted CMD write. -/
def Obligations.LeavesIdleOnlyByCmdWrite : Prop :=
  ∀ s t : State, step s = .next t → s.phase = .idle → t.phase = .busy →
    HostNext s (.wr 0x00 4 t.cmd) ∧ t.status = 0x00000001

/-- R23: STATUS is written at acceptance and at completion and, but for a reset, at no other time. -/
def Obligations.StatusWrittenOnlyAtAcceptanceAndCompletion : Prop :=
  ∀ s t : State, step s = .next t → t.status ≠ s.status →
    (s.phase = .idle ∧ ∃ w, HostNext s (.wr 0x00 4 w)) ∨ (s.phase = .busy ∧ EngineNext s) ∨
    ∃ rest, s.agenda = .reset :: rest

/-- R58 item 1: from acceptance to the engine's step, nothing the command reads can change, whatever the host does. -/
def Obligations.SnapshotCannotChange : Prop :=
  ∀ s t : State, step s = .next t → s.phase = .busy → t.phase = .busy → BlockSame s t

/-- R82, R180 (with the weak fairness the agenda stands for, log entry 1): an accepted command is completed, or abandoned by a
reset, within one step more than the agenda is long, if the host keeps its duties. -/
def Obligations.BusyEngineCompletes : Prop :=
  ∀ s : State, s.phase = .busy → DutiesKept (s.agenda.length + 1) s →
    ∃ k t, k ≤ s.agenda.length + 1 ∧ Host.Core.run core k s = .next t ∧ State.phase t = .idle

/-! ### Grids, lanes and addresses -/

/-- R41: the pixels of a grid of width `w` and height `h` are in row-major order. Pixel `i` is at row `i div w` and column
`i mod w`, inside the grid for `i < w * h`; the pixel at each row and column of the grid has one index below `w * h`; and the
index rises row by row, and from left to right in a row. No step reads a row or a column, since every rule addresses a pixel by
its index. -/
def Obligations.GridIndexIsRowMajor : Prop :=
  ∀ w h : Nat, 0 < w →
    (∀ i, gridRow w i = i / w ∧ gridCol w i = i % w) ∧
    (∀ i, i < w * h → gridRow w i < h ∧ gridCol w i < w) ∧
    (∀ row col, row < h → col < w →
      gridIndex w row col < w * h ∧ gridIndex w row col / w = row ∧ gridIndex w row col % w = col) ∧
    (∀ i, gridIndex w (i / w) (i % w) = i) ∧
    ∀ row col row' col', col < w → col' < w →
      (gridIndex w row col < gridIndex w row' col' ↔ row < row' ∨ (row = row' ∧ col < col'))

/-- R46, R47: in disjoint backing regions, the byte addresses of the samples of the three buffers are all different. -/
def Obligations.SampleAddressesAreDistinct : Prop :=
  ∀ (pl : Config.Placement) (nCin nPin nOut p j p' j' : Nat) (b b' : BufId), RegionsDisjoint pl nCin nPin nOut →
    j < 3 → j' < 3 →
    (b = .cin → p < nCin) → (b = .pin → p < nPin) → (b = .out → p < nOut) →
    (b' = .cin → p' < nCin) → (b' = .pin → p' < nPin) → (b' = .out → p' < nOut) →
    sampleAddress pl b p j = sampleAddress pl b' p' j' → b = b' ∧ p = p' ∧ j = j'

/-- R48: lane `k` of a register is its bits `[8k+7:8k]`. -/
def Obligations.RegisterLanesAreLittleEndian : Prop :=
  ∀ (w : Word) (k c : Nat), k < 4 → c < 8 → (regLane w k).getLsbD c = w.getLsbD (8 * k + c)

/-! ### The end of a run -/

/-- R181: the end of a run, and what is observed then. When no host operation is left and the engine is BUSY, the run ends at the
engine step that completes the command, whatever turns or resets the agenda still lists. When the last host operation is done
while IDLE and leaves the engine IDLE, the run ends there. Neither state before was an end. The observation shows each register's
word, which is what a host read then returns, and the pixels of CIN, PIN and OUT. The agenda is the model's own field (log entry
1), and how the end is told from it is log entry 19. -/
def Obligations.RunEndsAndIsObserved : Prop :=
  (∀ s : State, NoHostLeft s.agenda → EngineNext s → s.phase = .busy → ∃ t, step s = .next t ∧ RunEndsIn 1 s t) ∧
  (∀ (s t : State) (op : HostOp) (rest : List Event), Inv s → s.phase = .idle → s.agenda = .host op :: rest → NoHostLeft rest →
    step s = .next t → t.phase = .idle → RunEndsIn 1 s t) ∧
  ∀ (s : State) (nCin nPin nOut : Nat), RunEnded s →
    (∀ r w, (r, w) ∈ (s.observe nCin nPin nOut).regs ↔ w = s.readOffset r.offset) ∧
    (∀ i, i < nCin → (s.observe nCin nPin nOut).cin[i]? = some ⟨s.sample .cin i 0, s.sample .cin i 1, s.sample .cin i 2⟩) ∧
    (∀ i, i < nPin → (s.observe nCin nPin nOut).pin[i]? = some ⟨s.sample .pin i 0, s.sample .pin i 1, s.sample .pin i 2⟩) ∧
    (∀ i, i < nOut → (s.observe nCin nPin nOut).out[i]? = some ⟨s.sample .out i 0, s.sample .out i 1, s.sample .out i 2⟩)
end

