-- ==== Sys2Proof/Laws/Memory.lean ====
section
/-! SUPPORT. The laws of one buffer: what a read finds after a write, a fill or a redraw, and that each keeps the canonical
form. -/

namespace Sys2Proof.Machine

/-! ### Reading back -/

@[simp] theorem Memory.read?_nil (k : Nat) : Memory.read? [] k = none := rfl

theorem Memory.read?_cons (a : Nat) (v : Byte) (m : Memory) (k : Nat) :
    Memory.read? ((a, v) :: m) k = if k = a then some v else Memory.read? m k := rfl

theorem Memory.read?_write (m : Memory) (k : Nat) (v : Byte) (k' : Nat) :
    (m.write k v).read? k' = if k' = k then some v else m.read? k' := by
  induction m with
  | nil => rfl
  | cons c m ih =>
    obtain ⟨a, w⟩ := c
    simp only [Memory.write]
    split
    · rfl
    · split
      · next h => subst h; simp only [Memory.read?_cons]; split <;> rfl
      · next hne =>
        simp only [Memory.read?_cons, ih]
        by_cases hk : k' = k
        · subst hk; simp [hne]
        · simp [hk]

@[simp] theorem Memory.read?_write_same (m : Memory) (k : Nat) (v : Byte) : (m.write k v).read? k = some v := by
  simp [Memory.read?_write]

theorem Memory.read?_write_other (m : Memory) {k k' : Nat} (v : Byte) (h : k' ≠ k) :
    (m.write k v).read? k' = m.read? k' := by
  simp [Memory.read?_write, h]

theorem Memory.read?_append (m m' : Memory) (k : Nat) :
    Memory.read? (m ++ m') k = (m.read? k).or (Memory.read? m' k) := by
  induction m with
  | nil => rfl
  | cons c m ih =>
    obtain ⟨a, w⟩ := c
    simp only [List.cons_append, Memory.read?_cons, ih]
    split <;> rfl

theorem Memory.read?_filter_ge (m : Memory) (n k : Nat) :
    Memory.read? (m.filter (fun c => decide (n ≤ c.1))) k = if n ≤ k then m.read? k else none := by
  induction m with
  | nil => simp
  | cons c m ih =>
    obtain ⟨a, w⟩ := c
    by_cases ha : n ≤ a <;> by_cases hk : k = a <;> simp_all [Memory.read?_cons]

theorem Memory.read?_listing (l : List Nat) (f : Nat → Byte) (k : Nat) :
    Memory.read? (l.map (fun a => (a, f a))) k = if k ∈ l then some (f k) else none := by
  induction l with
  | nil => rfl
  | cons a l ih =>
    simp only [List.map_cons, Memory.read?_cons, ih, List.mem_cons]
    by_cases hk : k = a
    · subst hk; simp
    · simp [hk]

theorem Memory.read?_fill (n : Nat) (f : Nat → Byte) (m : Memory) (k : Nat) :
    (m.fill n f).read? k = if k < n then some (f k) else m.read? k := by
  simp only [Memory.fill, Memory.read?_append, Memory.read?_listing, Memory.read?_filter_ge, List.mem_range]
  split
  · rfl
  · next h => simp [Nat.le_of_not_lt h]

theorem Memory.read?_redraw (f : Nat → Byte → Byte) (m : Memory) (k : Nat) :
    (m.redraw f).read? k = (m.read? k).map (f k) := by
  induction m with
  | nil => rfl
  | cons c m ih =>
    obtain ⟨a, w⟩ := c
    have : Memory.redraw f ((a, w) :: m) = (a, f a w) :: Memory.redraw f m := rfl
    rw [this, Memory.read?_cons, Memory.read?_cons, ih]
    split
    · next h => subst h; rfl
    · rfl

/-- Filling the same extent with the same samples twice is filling it once. -/
theorem Memory.fill_fill (n : Nat) (f g : Nat → Byte) (m : Memory) : (m.fill n f).fill n g = m.fill n g := by
  have h : ((List.range n).map (fun k => (k, f k))).filter (fun c : Host.Cell => decide (n ≤ c.1)) = [] := by
    simp only [List.filter_eq_nil_iff, List.mem_map, List.mem_range, decide_eq_true_eq]
    rintro _ ⟨k, hk, rfl⟩
    simpa using hk
  simp [Memory.fill, List.filter_append, h]

/-! ### The canonical form -/

theorem Memory.wf_nil : Memory.wf [] := List.Pairwise.nil

/-- Every key a write leaves is the written one or an old one. -/
theorem Memory.mem_write {m : Memory} {k : Nat} {v : Byte} {c : Host.Cell} (h : c ∈ m.write k v) :
    c.1 = k ∨ c ∈ m := by
  induction m with
  | nil => simp [Memory.write] at h; exact .inl (by rw [h])
  | cons d m ih =>
    obtain ⟨a, w⟩ := d
    simp only [Memory.write] at h
    split at h
    · rcases List.mem_cons.1 h with rfl | h
      · exact .inl rfl
      · exact .inr h
    · split at h
      · rcases List.mem_cons.1 h with rfl | h
        · exact .inl rfl
        · exact .inr (List.mem_cons_of_mem _ h)
      · rcases List.mem_cons.1 h with rfl | h
        · exact .inr List.mem_cons_self
        · exact (ih h).imp id (List.mem_cons_of_mem _)

theorem Memory.wf_write {m : Memory} (h : m.wf) (k : Nat) (v : Byte) : (m.write k v).wf := by
  induction m with
  | nil => exact List.pairwise_singleton _ _
  | cons d m ih =>
    obtain ⟨a, w⟩ := d
    obtain ⟨ha, hm⟩ := List.pairwise_cons.1 h
    simp only [Memory.write]
    split
    · next hk =>
      refine List.pairwise_cons.2 ⟨?_, h⟩
      intro c hc
      rcases List.mem_cons.1 hc with rfl | hc
      · exact hk
      · exact Nat.lt_trans hk (ha c hc)
    · split
      · next hk => subst hk; exact List.pairwise_cons.2 ⟨ha, hm⟩
      · next h1 h2 =>
        refine List.pairwise_cons.2 ⟨?_, ih hm⟩
        intro c hc
        rcases Memory.mem_write hc with hc | hc
        · show a < c.1; omega
        · exact ha c hc

theorem Memory.wf_fill {m : Memory} (h : m.wf) (n : Nat) (f : Nat → Byte) : (m.fill n f).wf := by
  refine List.pairwise_append.2 ⟨?_, List.Pairwise.filter _ h, ?_⟩
  · exact List.pairwise_map.2 List.pairwise_lt_range
  · intro x hx y hy
    simp only [List.mem_map, List.mem_range, List.mem_filter, decide_eq_true_eq] at hx hy
    obtain ⟨k, hk, rfl⟩ := hx
    exact Nat.lt_of_lt_of_le hk hy.2

theorem Memory.wf_redraw {m : Memory} (h : m.wf) (f : Nat → Byte → Byte) : (m.redraw f).wf :=
  List.pairwise_map.2 h

/-- Two canonical buffers that read alike are the same list. -/
theorem Memory.ext_of_read? {m m' : Memory} (h : m.wf) (h' : m'.wf) (heq : ∀ k, m.read? k = m'.read? k) : m = m' := by
  have none_of_lt : ∀ {l : Memory} {k : Nat}, (∀ c ∈ l, k < c.1) → l.read? k = none := by
    intro l k hl
    induction l with
    | nil => rfl
    | cons c l ih =>
      obtain ⟨a, w⟩ := c
      have := hl (a, w) List.mem_cons_self
      rw [Memory.read?_cons, if_neg (Nat.ne_of_lt this)]
      exact ih fun c hc => hl c (List.mem_cons_of_mem _ hc)
  induction m generalizing m' with
  | nil =>
    cases m' with
    | nil => rfl
    | cons c m' =>
      obtain ⟨a, w⟩ := c
      have := heq a
      simp [Memory.read?_cons] at this
  | cons c m ih =>
    obtain ⟨a, w⟩ := c
    obtain ⟨ha, hm⟩ := List.pairwise_cons.1 h
    cases m' with
    | nil => have := heq a; simp [Memory.read?_cons] at this
    | cons c' m' =>
      obtain ⟨a', w'⟩ := c'
      obtain ⟨ha', hm'⟩ := List.pairwise_cons.1 h'
      have haa : a = a' := by
        rcases Nat.lt_trichotomy a a' with hlt | he | hlt
        · have h1 := heq a
          rw [Memory.read?_cons, if_pos rfl, Memory.read?_cons, if_neg (Nat.ne_of_lt hlt),
            none_of_lt (fun c hc => Nat.lt_trans hlt (ha' c hc))] at h1
          cases h1
        · exact he
        · have h1 := heq a'
          rw [Memory.read?_cons, if_neg (Nat.ne_of_lt hlt), Memory.read?_cons, if_pos rfl,
            none_of_lt (fun c hc => Nat.lt_trans hlt (ha c hc))] at h1
          cases h1
      subst haa
      have hw : w = w' := by simpa [Memory.read?_cons] using heq a
      subst hw
      congr 1
      refine ih hm hm' fun k => ?_
      by_cases hk : k = a
      · subst hk; rw [none_of_lt ha, none_of_lt ha']
      · simpa [Memory.read?_cons, hk] using heq k

end Sys2Proof.Machine
end

