-- ==== Sys2Proof/Laws/State.lean ====
section
/-! SUPPORT. One lemma per field per update of State, each true by rfl, so that no later proof unfolds a record update. -/

namespace Sys2Proof.Machine

/-! ### State.complete -/

@[simp] theorem State.complete_cmd (s : State) : s.complete.cmd = s.cmd := rfl
@[simp] theorem State.complete_status (s : State) : s.complete.status = statusComplete := rfl
@[simp] theorem State.complete_carW (s : State) : s.complete.carW = s.carW := rfl
@[simp] theorem State.complete_carH (s : State) : s.complete.carH = s.carH := rfl
@[simp] theorem State.complete_payW (s : State) : s.complete.payW = s.payW := rfl
@[simp] theorem State.complete_payH (s : State) : s.complete.payH = s.payH := rfl
@[simp] theorem State.complete_hdrW (s : State) : s.complete.hdrW = s.hdrW := rfl
@[simp] theorem State.complete_hdrH (s : State) : s.complete.hdrH = s.hdrH := rfl
@[simp] theorem State.complete_hdrParams (s : State) : s.complete.hdrParams = s.hdrParams := rfl
@[simp] theorem State.complete_phase (s : State) : s.complete.phase = .idle := rfl
@[simp] theorem State.complete_cin (s : State) : s.complete.cin = s.cin := rfl
@[simp] theorem State.complete_pin (s : State) : s.complete.pin = s.pin := rfl
@[simp] theorem State.complete_out (s : State) : s.complete.out = s.out := rfl
@[simp] theorem State.complete_agenda (s : State) : s.complete.agenda = s.agenda := rfl
@[simp] theorem State.complete_notes (s : State) : s.complete.notes = s.notes := rfl
@[simp] theorem State.complete_epoch (s : State) : s.complete.epoch = s.epoch := rfl
@[simp] theorem State.complete_draws (s : State) : s.complete.draws = s.draws := rfl

/-! ### State.raise -/

@[simp] theorem State.raise_cmd (s : State) (e : ErrorKind) (d : Nat) : (s.raise e d).cmd = s.cmd := rfl
@[simp] theorem State.raise_status (s : State) (e : ErrorKind) (d : Nat) : (s.raise e d).status = statusError e d := rfl
@[simp] theorem State.raise_carW (s : State) (e : ErrorKind) (d : Nat) : (s.raise e d).carW = s.carW := rfl
@[simp] theorem State.raise_carH (s : State) (e : ErrorKind) (d : Nat) : (s.raise e d).carH = s.carH := rfl
@[simp] theorem State.raise_payW (s : State) (e : ErrorKind) (d : Nat) : (s.raise e d).payW = s.payW := rfl
@[simp] theorem State.raise_payH (s : State) (e : ErrorKind) (d : Nat) : (s.raise e d).payH = s.payH := rfl
@[simp] theorem State.raise_hdrW (s : State) (e : ErrorKind) (d : Nat) : (s.raise e d).hdrW = s.hdrW := rfl
@[simp] theorem State.raise_hdrH (s : State) (e : ErrorKind) (d : Nat) : (s.raise e d).hdrH = s.hdrH := rfl
@[simp] theorem State.raise_hdrParams (s : State) (e : ErrorKind) (d : Nat) : (s.raise e d).hdrParams = s.hdrParams := rfl
@[simp] theorem State.raise_phase (s : State) (e : ErrorKind) (d : Nat) : (s.raise e d).phase = .idle := rfl
@[simp] theorem State.raise_cin (s : State) (e : ErrorKind) (d : Nat) : (s.raise e d).cin = s.cin := rfl
@[simp] theorem State.raise_pin (s : State) (e : ErrorKind) (d : Nat) : (s.raise e d).pin = s.pin := rfl
@[simp] theorem State.raise_out (s : State) (e : ErrorKind) (d : Nat) : (s.raise e d).out = s.out := rfl
@[simp] theorem State.raise_agenda (s : State) (e : ErrorKind) (d : Nat) : (s.raise e d).agenda = s.agenda := rfl
@[simp] theorem State.raise_notes (s : State) (e : ErrorKind) (d : Nat) : (s.raise e d).notes = s.notes := rfl
@[simp] theorem State.raise_epoch (s : State) (e : ErrorKind) (d : Nat) : (s.raise e d).epoch = s.epoch := rfl
@[simp] theorem State.raise_draws (s : State) (e : ErrorKind) (d : Nat) : (s.raise e d).draws = s.draws := rfl

/-! ### State.acceptCommand -/

@[simp] theorem State.acceptCommand_cmd (s : State) (w : Word) : (s.acceptCommand w).cmd = w := rfl
@[simp] theorem State.acceptCommand_status (s : State) (w : Word) : (s.acceptCommand w).status = statusAccepted := rfl
@[simp] theorem State.acceptCommand_carW (s : State) (w : Word) : (s.acceptCommand w).carW = s.carW := rfl
@[simp] theorem State.acceptCommand_carH (s : State) (w : Word) : (s.acceptCommand w).carH = s.carH := rfl
@[simp] theorem State.acceptCommand_payW (s : State) (w : Word) : (s.acceptCommand w).payW = s.payW := rfl
@[simp] theorem State.acceptCommand_payH (s : State) (w : Word) : (s.acceptCommand w).payH = s.payH := rfl
@[simp] theorem State.acceptCommand_hdrW (s : State) (w : Word) : (s.acceptCommand w).hdrW = s.hdrW := rfl
@[simp] theorem State.acceptCommand_hdrH (s : State) (w : Word) : (s.acceptCommand w).hdrH = s.hdrH := rfl
@[simp] theorem State.acceptCommand_hdrParams (s : State) (w : Word) : (s.acceptCommand w).hdrParams = s.hdrParams := rfl
@[simp] theorem State.acceptCommand_phase (s : State) (w : Word) : (s.acceptCommand w).phase = .busy := rfl
@[simp] theorem State.acceptCommand_cin (s : State) (w : Word) : (s.acceptCommand w).cin = s.cin := rfl
@[simp] theorem State.acceptCommand_pin (s : State) (w : Word) : (s.acceptCommand w).pin = s.pin := rfl
@[simp] theorem State.acceptCommand_out (s : State) (w : Word) : (s.acceptCommand w).out = s.out := rfl
@[simp] theorem State.acceptCommand_agenda (s : State) (w : Word) : (s.acceptCommand w).agenda = s.agenda := rfl
@[simp] theorem State.acceptCommand_notes (s : State) (w : Word) : (s.acceptCommand w).notes = s.notes := rfl
@[simp] theorem State.acceptCommand_epoch (s : State) (w : Word) : (s.acceptCommand w).epoch = s.epoch := rfl
@[simp] theorem State.acceptCommand_draws (s : State) (w : Word) : (s.acceptCommand w).draws = s.draws := rfl

/-! ### State.writeOut -/

@[simp] theorem State.writeOut_cmd (s : State) (n : Nat) (f : Nat → Nat → Byte) : (s.writeOut n f).cmd = s.cmd := rfl
@[simp] theorem State.writeOut_status (s : State) (n : Nat) (f : Nat → Nat → Byte) : (s.writeOut n f).status = s.status := rfl
@[simp] theorem State.writeOut_carW (s : State) (n : Nat) (f : Nat → Nat → Byte) : (s.writeOut n f).carW = s.carW := rfl
@[simp] theorem State.writeOut_carH (s : State) (n : Nat) (f : Nat → Nat → Byte) : (s.writeOut n f).carH = s.carH := rfl
@[simp] theorem State.writeOut_payW (s : State) (n : Nat) (f : Nat → Nat → Byte) : (s.writeOut n f).payW = s.payW := rfl
@[simp] theorem State.writeOut_payH (s : State) (n : Nat) (f : Nat → Nat → Byte) : (s.writeOut n f).payH = s.payH := rfl
@[simp] theorem State.writeOut_hdrW (s : State) (n : Nat) (f : Nat → Nat → Byte) : (s.writeOut n f).hdrW = s.hdrW := rfl
@[simp] theorem State.writeOut_hdrH (s : State) (n : Nat) (f : Nat → Nat → Byte) : (s.writeOut n f).hdrH = s.hdrH := rfl
@[simp] theorem State.writeOut_hdrParams (s : State) (n : Nat) (f : Nat → Nat → Byte) : (s.writeOut n f).hdrParams = s.hdrParams := rfl
@[simp] theorem State.writeOut_phase (s : State) (n : Nat) (f : Nat → Nat → Byte) : (s.writeOut n f).phase = s.phase := rfl
@[simp] theorem State.writeOut_cin (s : State) (n : Nat) (f : Nat → Nat → Byte) : (s.writeOut n f).cin = s.cin := rfl
@[simp] theorem State.writeOut_pin (s : State) (n : Nat) (f : Nat → Nat → Byte) : (s.writeOut n f).pin = s.pin := rfl
@[simp] theorem State.writeOut_out (s : State) (n : Nat) (f : Nat → Nat → Byte) : (s.writeOut n f).out = s.out.fill (3 * n) (fun k => f (k / 3) (k % 3)) := rfl
@[simp] theorem State.writeOut_agenda (s : State) (n : Nat) (f : Nat → Nat → Byte) : (s.writeOut n f).agenda = s.agenda := rfl
@[simp] theorem State.writeOut_notes (s : State) (n : Nat) (f : Nat → Nat → Byte) : (s.writeOut n f).notes = s.notes := rfl
@[simp] theorem State.writeOut_epoch (s : State) (n : Nat) (f : Nat → Nat → Byte) : (s.writeOut n f).epoch = s.epoch := rfl
@[simp] theorem State.writeOut_draws (s : State) (n : Nat) (f : Nat → Nat → Byte) : (s.writeOut n f).draws = s.draws := rfl

/-! ### State.payGather -/

@[simp] theorem State.payGather_cmd (s : State) (n b k : Nat) : (s.payGather n b k).cmd = s.cmd := rfl
@[simp] theorem State.payGather_status (s : State) (n b k : Nat) : (s.payGather n b k).status = s.status := rfl
@[simp] theorem State.payGather_carW (s : State) (n b k : Nat) : (s.payGather n b k).carW = s.carW := rfl
@[simp] theorem State.payGather_carH (s : State) (n b k : Nat) : (s.payGather n b k).carH = s.carH := rfl
@[simp] theorem State.payGather_payW (s : State) (n b k : Nat) : (s.payGather n b k).payW = s.payW := rfl
@[simp] theorem State.payGather_payH (s : State) (n b k : Nat) : (s.payGather n b k).payH = s.payH := rfl
@[simp] theorem State.payGather_hdrW (s : State) (n b k : Nat) : (s.payGather n b k).hdrW = s.hdrW := rfl
@[simp] theorem State.payGather_hdrH (s : State) (n b k : Nat) : (s.payGather n b k).hdrH = s.hdrH := rfl
@[simp] theorem State.payGather_hdrParams (s : State) (n b k : Nat) : (s.payGather n b k).hdrParams = s.hdrParams := rfl
@[simp] theorem State.payGather_phase (s : State) (n b k : Nat) : (s.payGather n b k).phase = s.phase := rfl
@[simp] theorem State.payGather_cin (s : State) (n b k : Nat) : (s.payGather n b k).cin = s.cin := rfl
@[simp] theorem State.payGather_pin (s : State) (n b k : Nat) : (s.payGather n b k).pin = s.pin := rfl
@[simp] theorem State.payGather_out (s : State) (n b k : Nat) : (s.payGather n b k).out = s.out.fill (3 * n) (fun q => s.gatherSample b k (q / 3) (q % 3)) := rfl
@[simp] theorem State.payGather_agenda (s : State) (n b k : Nat) : (s.payGather n b k).agenda = s.agenda := rfl
@[simp] theorem State.payGather_notes (s : State) (n b k : Nat) : (s.payGather n b k).notes = s.notes := rfl
@[simp] theorem State.payGather_epoch (s : State) (n b k : Nat) : (s.payGather n b k).epoch = s.epoch := rfl
@[simp] theorem State.payGather_draws (s : State) (n b k : Nat) : (s.payGather n b k).draws = s.draws := rfl

/-! ### State.loadHeader -/

@[simp] theorem State.loadHeader_cmd (s : State) : s.loadHeader.cmd = s.cmd := rfl
@[simp] theorem State.loadHeader_status (s : State) : s.loadHeader.status = s.status := rfl
@[simp] theorem State.loadHeader_carW (s : State) : s.loadHeader.carW = s.carW := rfl
@[simp] theorem State.loadHeader_carH (s : State) : s.loadHeader.carH = s.carH := rfl
@[simp] theorem State.loadHeader_payW (s : State) : s.loadHeader.payW = s.payW := rfl
@[simp] theorem State.loadHeader_payH (s : State) : s.loadHeader.payH = s.payH := rfl
@[simp] theorem State.loadHeader_hdrW (s : State) : s.loadHeader.hdrW = s.hdrExtract.w := rfl
@[simp] theorem State.loadHeader_hdrH (s : State) : s.loadHeader.hdrH = s.hdrExtract.h := rfl
@[simp] theorem State.loadHeader_hdrParams (s : State) : s.loadHeader.hdrParams = s.hdrExtract.b.setWidth 8 ||| (s.hdrExtract.s.setWidth 8 <<< 4) := rfl
@[simp] theorem State.loadHeader_phase (s : State) : s.loadHeader.phase = s.phase := rfl
@[simp] theorem State.loadHeader_cin (s : State) : s.loadHeader.cin = s.cin := rfl
@[simp] theorem State.loadHeader_pin (s : State) : s.loadHeader.pin = s.pin := rfl
@[simp] theorem State.loadHeader_out (s : State) : s.loadHeader.out = s.out := rfl
@[simp] theorem State.loadHeader_agenda (s : State) : s.loadHeader.agenda = s.agenda := rfl
@[simp] theorem State.loadHeader_notes (s : State) : s.loadHeader.notes = s.notes := rfl
@[simp] theorem State.loadHeader_epoch (s : State) : s.loadHeader.epoch = s.epoch := rfl
@[simp] theorem State.loadHeader_draws (s : State) : s.loadHeader.draws = s.draws := rfl

/-! ### State.note -/

@[simp] theorem State.note_cmd (s : State) (n : Note) : (s.note n).cmd = s.cmd := rfl
@[simp] theorem State.note_status (s : State) (n : Note) : (s.note n).status = s.status := rfl
@[simp] theorem State.note_carW (s : State) (n : Note) : (s.note n).carW = s.carW := rfl
@[simp] theorem State.note_carH (s : State) (n : Note) : (s.note n).carH = s.carH := rfl
@[simp] theorem State.note_payW (s : State) (n : Note) : (s.note n).payW = s.payW := rfl
@[simp] theorem State.note_payH (s : State) (n : Note) : (s.note n).payH = s.payH := rfl
@[simp] theorem State.note_hdrW (s : State) (n : Note) : (s.note n).hdrW = s.hdrW := rfl
@[simp] theorem State.note_hdrH (s : State) (n : Note) : (s.note n).hdrH = s.hdrH := rfl
@[simp] theorem State.note_hdrParams (s : State) (n : Note) : (s.note n).hdrParams = s.hdrParams := rfl
@[simp] theorem State.note_phase (s : State) (n : Note) : (s.note n).phase = s.phase := rfl
@[simp] theorem State.note_cin (s : State) (n : Note) : (s.note n).cin = s.cin := rfl
@[simp] theorem State.note_pin (s : State) (n : Note) : (s.note n).pin = s.pin := rfl
@[simp] theorem State.note_out (s : State) (n : Note) : (s.note n).out = s.out := rfl
@[simp] theorem State.note_agenda (s : State) (n : Note) : (s.note n).agenda = s.agenda := rfl
@[simp] theorem State.note_notes (s : State) (n : Note) : (s.note n).notes = n :: s.notes := rfl
@[simp] theorem State.note_epoch (s : State) (n : Note) : (s.note n).epoch = s.epoch := rfl
@[simp] theorem State.note_draws (s : State) (n : Note) : (s.note n).draws = s.draws := rfl

/-! ### State.readAndNote -/

@[simp] theorem State.readAndNote_cmd (s : State) (off : Nat) : (s.readAndNote off).cmd = s.cmd := rfl
@[simp] theorem State.readAndNote_status (s : State) (off : Nat) : (s.readAndNote off).status = s.status := rfl
@[simp] theorem State.readAndNote_carW (s : State) (off : Nat) : (s.readAndNote off).carW = s.carW := rfl
@[simp] theorem State.readAndNote_carH (s : State) (off : Nat) : (s.readAndNote off).carH = s.carH := rfl
@[simp] theorem State.readAndNote_payW (s : State) (off : Nat) : (s.readAndNote off).payW = s.payW := rfl
@[simp] theorem State.readAndNote_payH (s : State) (off : Nat) : (s.readAndNote off).payH = s.payH := rfl
@[simp] theorem State.readAndNote_hdrW (s : State) (off : Nat) : (s.readAndNote off).hdrW = s.hdrW := rfl
@[simp] theorem State.readAndNote_hdrH (s : State) (off : Nat) : (s.readAndNote off).hdrH = s.hdrH := rfl
@[simp] theorem State.readAndNote_hdrParams (s : State) (off : Nat) : (s.readAndNote off).hdrParams = s.hdrParams := rfl
@[simp] theorem State.readAndNote_phase (s : State) (off : Nat) : (s.readAndNote off).phase = s.phase := rfl
@[simp] theorem State.readAndNote_cin (s : State) (off : Nat) : (s.readAndNote off).cin = s.cin := rfl
@[simp] theorem State.readAndNote_pin (s : State) (off : Nat) : (s.readAndNote off).pin = s.pin := rfl
@[simp] theorem State.readAndNote_out (s : State) (off : Nat) : (s.readAndNote off).out = s.out := rfl
@[simp] theorem State.readAndNote_agenda (s : State) (off : Nat) : (s.readAndNote off).agenda = s.agenda := rfl
@[simp] theorem State.readAndNote_notes (s : State) (off : Nat) : (s.readAndNote off).notes = .reg off (s.readOffset off) :: s.notes := rfl
@[simp] theorem State.readAndNote_epoch (s : State) (off : Nat) : (s.readAndNote off).epoch = s.epoch := rfl
@[simp] theorem State.readAndNote_draws (s : State) (off : Nat) : (s.readAndNote off).draws = if s.readIsFree off then s.draws + 1 else s.draws := rfl

/-! ### State.poll -/

@[simp] theorem State.poll_cmd (s : State) : s.poll.cmd = s.cmd := rfl
@[simp] theorem State.poll_status (s : State) : s.poll.status = s.status := rfl
@[simp] theorem State.poll_carW (s : State) : s.poll.carW = s.carW := rfl
@[simp] theorem State.poll_carH (s : State) : s.poll.carH = s.carH := rfl
@[simp] theorem State.poll_payW (s : State) : s.poll.payW = s.payW := rfl
@[simp] theorem State.poll_payH (s : State) : s.poll.payH = s.payH := rfl
@[simp] theorem State.poll_hdrW (s : State) : s.poll.hdrW = s.hdrW := rfl
@[simp] theorem State.poll_hdrH (s : State) : s.poll.hdrH = s.hdrH := rfl
@[simp] theorem State.poll_hdrParams (s : State) : s.poll.hdrParams = s.hdrParams := rfl
@[simp] theorem State.poll_phase (s : State) : s.poll.phase = s.phase := rfl
@[simp] theorem State.poll_cin (s : State) : s.poll.cin = s.cin := rfl
@[simp] theorem State.poll_pin (s : State) : s.poll.pin = s.pin := rfl
@[simp] theorem State.poll_out (s : State) : s.poll.out = s.out := rfl
@[simp] theorem State.poll_agenda (s : State) : s.poll.agenda = if statusBusy s.status then .engine :: .host .wait :: s.agenda else s.agenda := rfl
@[simp] theorem State.poll_notes (s : State) : s.poll.notes = .reg 0x04 (s.readOffset 0x04) :: s.notes := rfl
@[simp] theorem State.poll_epoch (s : State) : s.poll.epoch = s.epoch := rfl
@[simp] theorem State.poll_draws (s : State) : s.poll.draws = if s.readIsFree 0x04 then s.draws + 1 else s.draws := rfl

/-! ### State.popAgenda -/

@[simp] theorem State.popAgenda_cmd (s : State) : s.popAgenda.cmd = s.cmd := rfl
@[simp] theorem State.popAgenda_status (s : State) : s.popAgenda.status = s.status := rfl
@[simp] theorem State.popAgenda_carW (s : State) : s.popAgenda.carW = s.carW := rfl
@[simp] theorem State.popAgenda_carH (s : State) : s.popAgenda.carH = s.carH := rfl
@[simp] theorem State.popAgenda_payW (s : State) : s.popAgenda.payW = s.payW := rfl
@[simp] theorem State.popAgenda_payH (s : State) : s.popAgenda.payH = s.payH := rfl
@[simp] theorem State.popAgenda_hdrW (s : State) : s.popAgenda.hdrW = s.hdrW := rfl
@[simp] theorem State.popAgenda_hdrH (s : State) : s.popAgenda.hdrH = s.hdrH := rfl
@[simp] theorem State.popAgenda_hdrParams (s : State) : s.popAgenda.hdrParams = s.hdrParams := rfl
@[simp] theorem State.popAgenda_phase (s : State) : s.popAgenda.phase = s.phase := rfl
@[simp] theorem State.popAgenda_cin (s : State) : s.popAgenda.cin = s.cin := rfl
@[simp] theorem State.popAgenda_pin (s : State) : s.popAgenda.pin = s.pin := rfl
@[simp] theorem State.popAgenda_out (s : State) : s.popAgenda.out = s.out := rfl
@[simp] theorem State.popAgenda_agenda (s : State) : s.popAgenda.agenda = s.agenda.tail := rfl
@[simp] theorem State.popAgenda_notes (s : State) : s.popAgenda.notes = s.notes := rfl
@[simp] theorem State.popAgenda_epoch (s : State) : s.popAgenda.epoch = s.epoch := rfl
@[simp] theorem State.popAgenda_draws (s : State) : s.popAgenda.draws = s.draws := rfl

/-! ### State.issueForEngine -/

@[simp] theorem State.issueForEngine_cmd (s : State) (w : Word) : (s.issueForEngine w).cmd = w := rfl
@[simp] theorem State.issueForEngine_status (s : State) (w : Word) : (s.issueForEngine w).status = statusAccepted := rfl
@[simp] theorem State.issueForEngine_carW (s : State) (w : Word) : (s.issueForEngine w).carW = s.carW := rfl
@[simp] theorem State.issueForEngine_carH (s : State) (w : Word) : (s.issueForEngine w).carH = s.carH := rfl
@[simp] theorem State.issueForEngine_payW (s : State) (w : Word) : (s.issueForEngine w).payW = s.payW := rfl
@[simp] theorem State.issueForEngine_payH (s : State) (w : Word) : (s.issueForEngine w).payH = s.payH := rfl
@[simp] theorem State.issueForEngine_hdrW (s : State) (w : Word) : (s.issueForEngine w).hdrW = s.hdrW := rfl
@[simp] theorem State.issueForEngine_hdrH (s : State) (w : Word) : (s.issueForEngine w).hdrH = s.hdrH := rfl
@[simp] theorem State.issueForEngine_hdrParams (s : State) (w : Word) : (s.issueForEngine w).hdrParams = s.hdrParams := rfl
@[simp] theorem State.issueForEngine_phase (s : State) (w : Word) : (s.issueForEngine w).phase = .busy := rfl
@[simp] theorem State.issueForEngine_cin (s : State) (w : Word) : (s.issueForEngine w).cin = s.cin := rfl
@[simp] theorem State.issueForEngine_pin (s : State) (w : Word) : (s.issueForEngine w).pin = s.pin := rfl
@[simp] theorem State.issueForEngine_out (s : State) (w : Word) : (s.issueForEngine w).out = s.out := rfl
@[simp] theorem State.issueForEngine_agenda (s : State) (w : Word) : (s.issueForEngine w).agenda = .engine :: s.agenda := rfl
@[simp] theorem State.issueForEngine_notes (s : State) (w : Word) : (s.issueForEngine w).notes = s.notes := rfl
@[simp] theorem State.issueForEngine_epoch (s : State) (w : Word) : (s.issueForEngine w).epoch = s.epoch := rfl
@[simp] theorem State.issueForEngine_draws (s : State) (w : Word) : (s.issueForEngine w).draws = s.draws := rfl

/-! ### State.resetBlock -/

@[simp] theorem State.resetBlock_cmd (s : State) : s.resetBlock.cmd = 0 := rfl
@[simp] theorem State.resetBlock_status (s : State) : s.resetBlock.status = 0 := rfl
@[simp] theorem State.resetBlock_carW (s : State) : s.resetBlock.carW = 0 := rfl
@[simp] theorem State.resetBlock_carH (s : State) : s.resetBlock.carH = 0 := rfl
@[simp] theorem State.resetBlock_payW (s : State) : s.resetBlock.payW = 0 := rfl
@[simp] theorem State.resetBlock_payH (s : State) : s.resetBlock.payH = 0 := rfl
@[simp] theorem State.resetBlock_hdrW (s : State) : s.resetBlock.hdrW = 0 := rfl
@[simp] theorem State.resetBlock_hdrH (s : State) : s.resetBlock.hdrH = 0 := rfl
@[simp] theorem State.resetBlock_hdrParams (s : State) : s.resetBlock.hdrParams = 0 := rfl
@[simp] theorem State.resetBlock_phase (s : State) : s.resetBlock.phase = .idle := rfl
@[simp] theorem State.resetBlock_cin (s : State) : s.resetBlock.cin = s.cin.redraw (Config.sampleAfterReset s.epoch .cin) := rfl
@[simp] theorem State.resetBlock_pin (s : State) : s.resetBlock.pin = s.pin.redraw (Config.sampleAfterReset s.epoch .pin) := rfl
@[simp] theorem State.resetBlock_out (s : State) : s.resetBlock.out = s.outAtReset.redraw (Config.sampleAfterReset s.epoch .out) := rfl
@[simp] theorem State.resetBlock_agenda (s : State) : s.resetBlock.agenda = s.agenda := rfl
@[simp] theorem State.resetBlock_notes (s : State) : s.resetBlock.notes = s.notes := rfl
@[simp] theorem State.resetBlock_epoch (s : State) : s.resetBlock.epoch = s.epoch + 1 := rfl
@[simp] theorem State.resetBlock_draws (s : State) : s.resetBlock.draws = s.draws := rfl

/-! ### State.setBuffer, State.putPixel -/

@[simp] theorem State.setBuffer_cin_cin (s : State) (m : Memory) : (s.setBuffer .cin m).cin = m := rfl
@[simp] theorem State.setBuffer_cin_pin (s : State) (m : Memory) : (s.setBuffer .cin m).pin = s.pin := rfl
@[simp] theorem State.setBuffer_cin_out (s : State) (m : Memory) : (s.setBuffer .cin m).out = s.out := rfl
@[simp] theorem State.setBuffer_pin_cin (s : State) (m : Memory) : (s.setBuffer .pin m).cin = s.cin := rfl
@[simp] theorem State.setBuffer_pin_pin (s : State) (m : Memory) : (s.setBuffer .pin m).pin = m := rfl
@[simp] theorem State.setBuffer_pin_out (s : State) (m : Memory) : (s.setBuffer .pin m).out = s.out := rfl
@[simp] theorem State.setBuffer_out_cin (s : State) (m : Memory) : (s.setBuffer .out m).cin = s.cin := rfl
@[simp] theorem State.setBuffer_out_pin (s : State) (m : Memory) : (s.setBuffer .out m).pin = s.pin := rfl
@[simp] theorem State.setBuffer_out_out (s : State) (m : Memory) : (s.setBuffer .out m).out = m := rfl

@[simp] theorem State.setBuffer_cmd (s : State) (b : BufId) (m : Memory) : (s.setBuffer b m).cmd = s.cmd := by cases b <;> rfl
@[simp] theorem State.setBuffer_status (s : State) (b : BufId) (m : Memory) : (s.setBuffer b m).status = s.status := by cases b <;> rfl
@[simp] theorem State.setBuffer_carW (s : State) (b : BufId) (m : Memory) : (s.setBuffer b m).carW = s.carW := by cases b <;> rfl
@[simp] theorem State.setBuffer_carH (s : State) (b : BufId) (m : Memory) : (s.setBuffer b m).carH = s.carH := by cases b <;> rfl
@[simp] theorem State.setBuffer_payW (s : State) (b : BufId) (m : Memory) : (s.setBuffer b m).payW = s.payW := by cases b <;> rfl
@[simp] theorem State.setBuffer_payH (s : State) (b : BufId) (m : Memory) : (s.setBuffer b m).payH = s.payH := by cases b <;> rfl
@[simp] theorem State.setBuffer_hdrW (s : State) (b : BufId) (m : Memory) : (s.setBuffer b m).hdrW = s.hdrW := by cases b <;> rfl
@[simp] theorem State.setBuffer_hdrH (s : State) (b : BufId) (m : Memory) : (s.setBuffer b m).hdrH = s.hdrH := by cases b <;> rfl
@[simp] theorem State.setBuffer_hdrParams (s : State) (b : BufId) (m : Memory) : (s.setBuffer b m).hdrParams = s.hdrParams := by cases b <;> rfl
@[simp] theorem State.setBuffer_phase (s : State) (b : BufId) (m : Memory) : (s.setBuffer b m).phase = s.phase := by cases b <;> rfl
@[simp] theorem State.setBuffer_agenda (s : State) (b : BufId) (m : Memory) : (s.setBuffer b m).agenda = s.agenda := by cases b <;> rfl
@[simp] theorem State.setBuffer_notes (s : State) (b : BufId) (m : Memory) : (s.setBuffer b m).notes = s.notes := by cases b <;> rfl
@[simp] theorem State.setBuffer_epoch (s : State) (b : BufId) (m : Memory) : (s.setBuffer b m).epoch = s.epoch := by cases b <;> rfl
@[simp] theorem State.setBuffer_draws (s : State) (b : BufId) (m : Memory) : (s.setBuffer b m).draws = s.draws := by cases b <;> rfl
@[simp] theorem State.putPixel_cmd (s : State) (b : BufId) (i : Nat) (px : Pixel) : (s.putPixel b i px).cmd = s.cmd := by cases b <;> rfl
@[simp] theorem State.putPixel_status (s : State) (b : BufId) (i : Nat) (px : Pixel) : (s.putPixel b i px).status = s.status := by cases b <;> rfl
@[simp] theorem State.putPixel_carW (s : State) (b : BufId) (i : Nat) (px : Pixel) : (s.putPixel b i px).carW = s.carW := by cases b <;> rfl
@[simp] theorem State.putPixel_carH (s : State) (b : BufId) (i : Nat) (px : Pixel) : (s.putPixel b i px).carH = s.carH := by cases b <;> rfl
@[simp] theorem State.putPixel_payW (s : State) (b : BufId) (i : Nat) (px : Pixel) : (s.putPixel b i px).payW = s.payW := by cases b <;> rfl
@[simp] theorem State.putPixel_payH (s : State) (b : BufId) (i : Nat) (px : Pixel) : (s.putPixel b i px).payH = s.payH := by cases b <;> rfl
@[simp] theorem State.putPixel_hdrW (s : State) (b : BufId) (i : Nat) (px : Pixel) : (s.putPixel b i px).hdrW = s.hdrW := by cases b <;> rfl
@[simp] theorem State.putPixel_hdrH (s : State) (b : BufId) (i : Nat) (px : Pixel) : (s.putPixel b i px).hdrH = s.hdrH := by cases b <;> rfl
@[simp] theorem State.putPixel_hdrParams (s : State) (b : BufId) (i : Nat) (px : Pixel) : (s.putPixel b i px).hdrParams = s.hdrParams := by cases b <;> rfl
@[simp] theorem State.putPixel_phase (s : State) (b : BufId) (i : Nat) (px : Pixel) : (s.putPixel b i px).phase = s.phase := by cases b <;> rfl
@[simp] theorem State.putPixel_agenda (s : State) (b : BufId) (i : Nat) (px : Pixel) : (s.putPixel b i px).agenda = s.agenda := by cases b <;> rfl
@[simp] theorem State.putPixel_notes (s : State) (b : BufId) (i : Nat) (px : Pixel) : (s.putPixel b i px).notes = s.notes := by cases b <;> rfl
@[simp] theorem State.putPixel_epoch (s : State) (b : BufId) (i : Nat) (px : Pixel) : (s.putPixel b i px).epoch = s.epoch := by cases b <;> rfl
@[simp] theorem State.putPixel_draws (s : State) (b : BufId) (i : Nat) (px : Pixel) : (s.putPixel b i px).draws = s.draws := by cases b <;> rfl

end Sys2Proof.Machine
end

