-- ==== Sys2Proof/Laws/Ops.lean ====
section
/-! SUPPORT. The laws of the shared operations: what a sample reads as after each, that each keeps the buffers canonical, and
what each check answers. -/

namespace Sys2Proof.Machine

/-! ### Sample keys -/

theorem sampleKey_div {i j : Nat} (hj : j < 3) : sampleKey i j / 3 = i := by simp only [sampleKey]; omega

theorem sampleKey_mod {i j : Nat} (hj : j < 3) : sampleKey i j % 3 = j := by simp only [sampleKey]; omega

theorem sampleKey_lt {i j n : Nat} (hj : j < 3) : sampleKey i j < 3 * n ↔ i < n := by simp only [sampleKey]; omega

theorem sampleKey_inj {i j i' j' : Nat} (hj : j < 3) (hj' : j' < 3) (h : sampleKey i j = sampleKey i' j') :
    i = i' ∧ j = j' := by simp only [sampleKey] at h; omega

/-! ### Samples depend on one buffer and the epoch -/

theorem State.sample_eq_of {s t : State} {b : BufId} (hb : t.buffer b = s.buffer b) (he : t.epoch = s.epoch) (i j : Nat) :
    t.sample b i j = s.sample b i j := by
  simp only [State.sample, hb, he]

@[simp] theorem State.sample_complete (s : State) (b : BufId) (i j : Nat) : s.complete.sample b i j = s.sample b i j :=
  State.sample_eq_of (by cases b <;> rfl) rfl i j

@[simp] theorem State.sample_raise (s : State) (e : ErrorKind) (d : Nat) (b : BufId) (i j : Nat) :
    (s.raise e d).sample b i j = s.sample b i j :=
  State.sample_eq_of (by cases b <;> rfl) rfl i j

@[simp] theorem State.sample_acceptCommand (s : State) (w : Word) (b : BufId) (i j : Nat) :
    (s.acceptCommand w).sample b i j = s.sample b i j :=
  State.sample_eq_of (by cases b <;> rfl) rfl i j

@[simp] theorem State.sample_loadHeader (s : State) (b : BufId) (i j : Nat) : s.loadHeader.sample b i j = s.sample b i j :=
  State.sample_eq_of (by cases b <;> rfl) rfl i j

@[simp] theorem State.sample_popAgenda (s : State) (b : BufId) (i j : Nat) : s.popAgenda.sample b i j = s.sample b i j :=
  State.sample_eq_of (by cases b <;> rfl) rfl i j

@[simp] theorem State.sample_note (s : State) (n : Note) (b : BufId) (i j : Nat) : (s.note n).sample b i j = s.sample b i j :=
  State.sample_eq_of (by cases b <;> rfl) rfl i j

@[simp] theorem State.sample_cin_writeOut (s : State) (n : Nat) (f : Nat → Nat → Byte) (i j : Nat) :
    (s.writeOut n f).sample .cin i j = s.sample .cin i j := rfl

@[simp] theorem State.sample_pin_writeOut (s : State) (n : Nat) (f : Nat → Nat → Byte) (i j : Nat) :
    (s.writeOut n f).sample .pin i j = s.sample .pin i j := rfl

/-- What writeOut does to OUT: the new samples inside the extent, the old ones outside. -/
theorem State.sample_out_writeOut (s : State) (n : Nat) (f : Nat → Nat → Byte) (i : Nat) {j : Nat} (hj : j < 3) :
    (s.writeOut n f).sample .out i j = if i < n then f i j else s.sample .out i j := by
  simp only [State.sample, State.buffer, State.writeOut_out, State.writeOut_epoch, Memory.read?_fill, sampleKey_lt hj]
  split
  · simp [sampleKey_div hj, sampleKey_mod hj]
  · rfl

/-! ### The host's writes of a pixel -/

theorem State.buffer_setBuffer (s : State) (b c : BufId) (m : Memory) :
    (s.setBuffer b m).buffer c = if c = b then m else s.buffer c := by
  cases b <;> cases c <;> rfl

/-- What putPixel does: the three samples of the pixel, and no other sample of any buffer. -/
theorem State.sample_putPixel (s : State) (b c : BufId) (p i : Nat) (px : Pixel) {j : Nat} (hj : j < 3) :
    (s.putPixel b p px).sample c i j = if c = b ∧ i = p then px.channel j else s.sample c i j := by
  by_cases hc : c = b
  · subst hc
    simp only [State.sample, State.putPixel_epoch]
    simp only [State.putPixel, State.buffer_setBuffer, if_true, Memory.read?_write]
    by_cases hi : i = p
    · subst hi
      have hj' : j = 0 ∨ j = 1 ∨ j = 2 := by omega
      rcases hj' with rfl | rfl | rfl <;> simp [sampleKey, Pixel.channel]
    · have h : ∀ q, q < 3 → sampleKey i j ≠ sampleKey p q := fun q hq h => hi (sampleKey_inj hj hq h).1
      simp [hi, h 0 (by omega), h 1 (by omega), h 2 (by omega)]
  · have hb : (s.putPixel b p px).buffer c = s.buffer c := by
      simp [State.putPixel, State.buffer_setBuffer, hc]
    rw [State.sample_eq_of hb (State.putPixel_epoch ..)]
    simp [hc]

/-! ### The canonical form -/

/-- The three buffers are canonical. -/
def State.BuffersWf (s : State) : Prop := s.cin.wf ∧ s.pin.wf ∧ s.out.wf

theorem State.buffersWf_reset : State.reset.BuffersWf := ⟨Memory.wf_nil, Memory.wf_nil, Memory.wf_nil⟩

theorem State.BuffersWf.writeOut {s : State} (h : s.BuffersWf) (n : Nat) (f : Nat → Nat → Byte) :
    (s.writeOut n f).BuffersWf := ⟨h.1, h.2.1, Memory.wf_fill h.2.2 _ _⟩

theorem State.BuffersWf.putPixel {s : State} (h : s.BuffersWf) (b : BufId) (i : Nat) (px : Pixel) :
    (s.putPixel b i px).BuffersWf := by
  obtain ⟨hc, hp, ho⟩ := h
  cases b
  · exact ⟨Memory.wf_write (Memory.wf_write (Memory.wf_write hc _ _) _ _) _ _, hp, ho⟩
  · exact ⟨hc, Memory.wf_write (Memory.wf_write (Memory.wf_write hp _ _) _ _) _ _, ho⟩
  · exact ⟨hc, hp, Memory.wf_write (Memory.wf_write (Memory.wf_write ho _ _) _ _) _ _⟩

theorem State.wf_outAtReset {s : State} (h : s.out.wf) : s.outAtReset.wf := by
  unfold State.outAtReset State.abandonedOut
  repeat' split
  all_goals first | exact h | exact Memory.wf_fill h _ _

theorem State.BuffersWf.resetBlock {s : State} (h : s.BuffersWf) : s.resetBlock.BuffersWf :=
  ⟨Memory.wf_redraw h.1 _, Memory.wf_redraw h.2.1 _, Memory.wf_redraw (State.wf_outAtReset h.2.2) _⟩

/-! ### The checks -/

/-- checkParams answers 0 exactly on the legal pairs. -/
theorem checkParams_eq_zero {bps sf : Nat} :
    checkParams bps sf = 0 ↔ 1 ≤ bps ∧ bps ≤ 8 ∧ 1 ≤ sf ∧ sf ≤ 8 ∧ bps % sf = 0 := by
  unfold checkParams
  constructor
  · intro h
    repeat' split at h
    all_goals omega
  · intro h
    repeat' split
    all_goals omega

/-- checkParams answers 0, 1, 2 or 3. -/
theorem checkParams_le (bps sf : Nat) : checkParams bps sf ≤ 3 := by
  unfold checkParams; repeat' split
  all_goals omega

/-- headerCheck answers 0 or 2..8. -/
theorem headerCheck_range (w h b s cap : Nat) : headerCheck w h b s cap ≤ 8 ∧ headerCheck w h b s cap ≠ 1 := by
  unfold headerCheck; repeat' split
  all_goals omega

/-- On a legal pair, `bpp * sf = bps` (R118). -/
theorem bitsPerPixel_mul {bps sf : Nat} (h : bps % sf = 0) : bitsPerPixel bps sf * sf = bps :=
  Nat.div_mul_cancel (Nat.dvd_of_mod_eq_zero h)

end Sys2Proof.Machine
end

