-- ==== Sys2Proof/Laws/Commands.lean ====
section
/-! SUPPORT. One lemma per command, saying once everything it can do with the condition of each case, and what all of them
share: a command always answers a next state, of one of five shapes. -/

namespace Sys2Proof.Machine

theorem execHdrWrite_cases (bps sf : Nat) (s : State) :
    (checkParams bps sf ≠ 0 ∧ execHdrWrite bps sf s = .next (s.raise .invalidParameters (checkParams bps sf))) ∨
    (checkParams bps sf = 0 ∧ s.cap < 8 ∧ execHdrWrite bps sf s = .next (s.raise .insufficientCapacity 1)) ∨
    (checkParams bps sf = 0 ∧ 8 ≤ s.cap ∧ execHdrWrite bps sf s = .next (s.writeOut s.cap (fun i j =>
      if i < 8 then s.hdrOverlay s.payW s.payH bps sf i j else s.sample .cin i j)).complete) := by
  unfold execHdrWrite
  split
  · next h => exact .inl ⟨h, rfl⟩
  · next h =>
    split
    · next hc => exact .inr (.inl ⟨not_not.1 h, hc, rfl⟩)
    · next hc => exact .inr (.inr ⟨not_not.1 h, Nat.le_of_not_lt hc, rfl⟩)

theorem execHdrRead_cases (bps sf : Nat) (s : State) :
    (s.cap < 8 ∧ execHdrRead bps sf s = .next (s.raise .headerInvalid 1)) ∨
    (8 ≤ s.cap ∧ s.headerDetail ≠ 0 ∧
      execHdrRead bps sf s = .next (s.loadHeader.raise .headerInvalid s.headerDetail)) ∨
    (8 ≤ s.cap ∧ s.headerDetail = 0 ∧ execHdrRead bps sf s = .next s.loadHeader.complete) := by
  unfold execHdrRead
  split
  · next h => exact .inl ⟨h, rfl⟩
  · next h =>
    split
    · next hd => exact .inr (.inl ⟨Nat.le_of_not_lt h, hd, rfl⟩)
    · next hd => exact .inr (.inr ⟨Nat.le_of_not_lt h, not_not.1 hd, rfl⟩)

theorem execPayEncode_cases (bps sf : Nat) (s : State) :
    (checkParams bps sf ≠ 0 ∧ execPayEncode bps sf s = .next (s.raise .invalidParameters (checkParams bps sf))) ∨
    (checkParams bps sf = 0 ∧ execPayEncode bps sf s = .next (s.writeOut s.cap (fun i j =>
      if i < 8 then s.sample .cin i j else s.spreadSample bps sf i j)).complete) := by
  unfold execPayEncode
  split
  · next h => exact .inl ⟨h, rfl⟩
  · next h => exact .inr ⟨not_not.1 h, rfl⟩

theorem execPayDecode_cases (bps sf : Nat) (s : State) :
    (checkParams bps sf ≠ 0 ∧ execPayDecode bps sf s = .next (s.raise .invalidParameters (checkParams bps sf))) ∨
    (checkParams bps sf = 0 ∧ s.cap < 8 + s.payCount * sf ∧
      execPayDecode bps sf s = .next (s.raise .insufficientCapacity 2)) ∨
    (checkParams bps sf = 0 ∧ 8 + s.payCount * sf ≤ s.cap ∧
      execPayDecode bps sf s = .next (s.payGather s.payCount bps sf).complete) := by
  unfold execPayDecode
  split
  · next h => exact .inl ⟨h, rfl⟩
  · next h =>
    split
    · next hc => exact .inr (.inl ⟨not_not.1 h, hc, rfl⟩)
    · next hc => exact .inr (.inr ⟨not_not.1 h, Nat.le_of_not_lt hc, rfl⟩)

theorem execEmbed_cases (bps sf : Nat) (s : State) :
    (checkParams bps sf ≠ 0 ∧ execEmbed bps sf s = .next (s.raise .invalidParameters (checkParams bps sf))) ∨
    (checkParams bps sf = 0 ∧ s.cap < 8 + s.payCount * sf ∧
      execEmbed bps sf s = .next (s.raise .insufficientCapacity 2)) ∨
    (checkParams bps sf = 0 ∧ 8 + s.payCount * sf ≤ s.cap ∧ execEmbed bps sf s = .next (s.writeOut s.cap (fun i j =>
      if i < 8 then s.hdrOverlay s.payW s.payH bps sf i j else s.spreadSample bps sf i j)).complete) := by
  unfold execEmbed
  split
  · next h => exact .inl ⟨h, rfl⟩
  · next h =>
    split
    · next hc => exact .inr (.inl ⟨not_not.1 h, hc, rfl⟩)
    · next hc => exact .inr (.inr ⟨not_not.1 h, Nat.le_of_not_lt hc, rfl⟩)

theorem execExtract_cases (bps sf : Nat) (s : State) :
    (s.cap < 8 ∧ execExtract bps sf s = .next (s.raise .headerInvalid 1)) ∨
    (8 ≤ s.cap ∧ s.headerDetail ≠ 0 ∧
      execExtract bps sf s = .next (s.loadHeader.raise .headerInvalid s.headerDetail)) ∨
    (8 ≤ s.cap ∧ s.headerDetail = 0 ∧ execExtract bps sf s =
      .next (s.loadHeader.payGather (s.hdrExtract.w.toNat * s.hdrExtract.h.toNat)
        s.hdrExtract.b.toNat s.hdrExtract.s.toNat).complete) := by
  unfold execExtract
  split
  · next h => exact .inl ⟨h, rfl⟩
  · next h =>
    split
    · next hd => exact .inr (.inl ⟨Nat.le_of_not_lt h, hd, rfl⟩)
    · next hd => exact .inr (.inr ⟨Nat.le_of_not_lt h, not_not.1 hd, rfl⟩)

/-- The five shapes of a command's next state. -/
inductive Ended (s : State) : State → Prop where
  /-- An error before any register write (R130), with a pair of the table of R132. -/
  | failed {e : ErrorKind} {d : Nat} (h : (e, d) ∈ Safety.errorDetails) : Ended s (s.raise e d)
  /-- A header that fails its check: HDR_* are written first (R96, R122). -/
  | headerFailed {d : Nat} (h : (ErrorKind.headerInvalid, d) ∈ Safety.errorDetails) :
      Ended s (s.loadHeader.raise .headerInvalid d)
  /-- OUT written (R95, R108, R112, R120). -/
  | wrote (n : Nat) (f : Nat → Nat → Byte) : Ended s (s.writeOut n f).complete
  /-- HDR_* written (R96). -/
  | headerRead : Ended s s.loadHeader.complete
  /-- HDR_* and OUT written (R122). -/
  | extracted (n : Nat) (f : Nat → Nat → Byte) : Ended s (s.loadHeader.writeOut n f).complete

theorem checkParams_mem {bps sf : Nat} (h : checkParams bps sf ≠ 0) :
    (ErrorKind.invalidParameters, checkParams bps sf) ∈ Safety.errorDetails := by
  have := checkParams_le bps sf
  have h' : checkParams bps sf = 1 ∨ checkParams bps sf = 2 ∨ checkParams bps sf = 3 := by omega
  rcases h' with h | h | h <;> rw [h] <;> decide

theorem State.headerDetail_mem {s : State} (h : s.headerDetail ≠ 0) :
    (ErrorKind.headerInvalid, s.headerDetail) ∈ Safety.errorDetails := by
  obtain ⟨h8, h1⟩ : s.headerDetail ≤ 8 ∧ s.headerDetail ≠ 1 := headerCheck_range ..
  have h' : s.headerDetail = 2 ∨ s.headerDetail = 3 ∨ s.headerDetail = 4 ∨ s.headerDetail = 5 ∨ s.headerDetail = 6 ∨
      s.headerDetail = 7 ∨ s.headerDetail = 8 := by omega
  rcases h' with h | h | h | h | h | h | h <;> rw [h] <;> decide

/-- Everything a command can do. -/
theorem exec_ended (i : Instr) (s : State) : ∃ t, exec i s = .next t ∧ Ended s t := by
  cases i with
  | hdrWrite bps sf =>
    rcases execHdrWrite_cases bps sf s with ⟨h, e⟩ | ⟨_, _, e⟩ | ⟨_, _, e⟩
    · exact ⟨_, e, .failed (checkParams_mem h)⟩
    · exact ⟨_, e, .failed (by decide)⟩
    · exact ⟨_, e, .wrote _ _⟩
  | hdrRead bps sf =>
    rcases execHdrRead_cases bps sf s with ⟨_, e⟩ | ⟨_, h, e⟩ | ⟨_, _, e⟩
    · exact ⟨_, e, .failed (by decide)⟩
    · exact ⟨_, e, .headerFailed (State.headerDetail_mem h)⟩
    · exact ⟨_, e, .headerRead⟩
  | payEncode bps sf =>
    rcases execPayEncode_cases bps sf s with ⟨h, e⟩ | ⟨_, e⟩
    · exact ⟨_, e, .failed (checkParams_mem h)⟩
    · exact ⟨_, e, .wrote _ _⟩
  | payDecode bps sf =>
    rcases execPayDecode_cases bps sf s with ⟨h, e⟩ | ⟨_, _, e⟩ | ⟨_, _, e⟩
    · exact ⟨_, e, .failed (checkParams_mem h)⟩
    · exact ⟨_, e, .failed (by decide)⟩
    · exact ⟨_, e, .wrote _ _⟩
  | embed bps sf =>
    rcases execEmbed_cases bps sf s with ⟨h, e⟩ | ⟨_, _, e⟩ | ⟨_, _, e⟩
    · exact ⟨_, e, .failed (checkParams_mem h)⟩
    · exact ⟨_, e, .failed (by decide)⟩
    · exact ⟨_, e, .wrote _ _⟩
  | extract bps sf =>
    rcases execExtract_cases bps sf s with ⟨_, e⟩ | ⟨_, h, e⟩ | ⟨_, _, e⟩
    · exact ⟨_, e, .failed (by decide)⟩
    · exact ⟨_, e, .headerFailed (State.headerDetail_mem h)⟩
    · exact ⟨_, e, .extracted _ _⟩

end Sys2Proof.Machine
end

