-- ==== Sys2Proof/Laws/PerInstr.lean ====
section
/-! SUPPORT. One lemma per command, for the families of LAWS.json. -/

namespace Sys2Proof.Laws

/-! ### OpcodeField: the fixed bits of a command's word are those of the table (R74, `word & 0xFFFFF00F`) -/

/-- The `match` column of spec/opcode_table.json. -/
def OpcodeField.matchWord : Instr → Word
  | .hdrWrite _ _ => 0x00000001
  | .hdrRead _ _ => 0x00000002
  | .payEncode _ _ => 0x00000003
  | .payDecode _ _ => 0x00000004
  | .embed _ _ => 0x00000005
  | .extract _ _ => 0x00000006

/-- A well-formed command's word shows its opcode, and no reserved bit, under the table's mask. -/
def OpcodeField.Statement (i : Instr) : Prop :=
  i.wf = true → encode i &&& 0xFFFFF00F = OpcodeField.matchWord i

theorem OpcodeField.of_fields {op bps sf : Nat} (hb : bps ≤ 15) (hs : sf ≤ 15) (ho : op ≤ 15) :
    BitVec.ofNat 32 (op ||| (bps <<< 4) ||| (sf <<< 8)) &&& 0xFFFFF00F = BitVec.ofNat 32 op := by
  have h : ∀ o < 16, ∀ b < 16, ∀ s < 16,
      BitVec.ofNat 32 (o ||| (b <<< 4) ||| (s <<< 8)) &&& 0xFFFFF00F = BitVec.ofNat 32 o := by decide +kernel
  exact h op (by omega) bps (by omega) sf (by omega)

theorem OpcodeField.fits {i : Instr} (h : i.wf = true) : i.bps ≤ 15 ∧ i.sf ≤ 15 := by
  simpa [Instr.wf, Instr.bpsFits, Instr.sfFits] using h

theorem OpcodeField.hdrWrite (bps sf : Nat) : OpcodeField.Statement (.hdrWrite bps sf) := fun h =>
  OpcodeField.of_fields (OpcodeField.fits h).1 (OpcodeField.fits h).2 (show 1 ≤ 15 by decide)

theorem OpcodeField.hdrRead (bps sf : Nat) : OpcodeField.Statement (.hdrRead bps sf) := fun h =>
  OpcodeField.of_fields (OpcodeField.fits h).1 (OpcodeField.fits h).2 (show 2 ≤ 15 by decide)

theorem OpcodeField.payEncode (bps sf : Nat) : OpcodeField.Statement (.payEncode bps sf) := fun h =>
  OpcodeField.of_fields (OpcodeField.fits h).1 (OpcodeField.fits h).2 (show 3 ≤ 15 by decide)

theorem OpcodeField.payDecode (bps sf : Nat) : OpcodeField.Statement (.payDecode bps sf) := fun h =>
  OpcodeField.of_fields (OpcodeField.fits h).1 (OpcodeField.fits h).2 (show 4 ≤ 15 by decide)

theorem OpcodeField.embed (bps sf : Nat) : OpcodeField.Statement (.embed bps sf) := fun h =>
  OpcodeField.of_fields (OpcodeField.fits h).1 (OpcodeField.fits h).2 (show 5 ≤ 15 by decide)

theorem OpcodeField.extract (bps sf : Nat) : OpcodeField.Statement (.extract bps sf) := fun h =>
  OpcodeField.of_fields (OpcodeField.fits h).1 (OpcodeField.fits h).2 (show 6 ≤ 15 by decide)

end Sys2Proof.Laws
end

