-- ==== Sys2Proof/Laws/Status.lean ====
section
/-! SUPPORT. The legal STATUS words written out, and one step of a run or of a host that keeps its duties, so that no later proof
unfolds them. -/

namespace Sys2Proof.Safety

theorem statusWords_eq :
    statusWords = [0x000#32, 0x001#32, 0x002#32, 0x112#32, 0x212#32, 0x312#32, 0x122#32, 0x222#32, 0x132#32, 0x232#32,
      0x332#32, 0x432#32, 0x532#32, 0x632#32, 0x732#32, 0x832#32, 0x142#32, 0x242#32] := rfl

/-- A property of every legal STATUS word is that of the eighteen words. -/
theorem forall_statusWords {p : Word → Prop} :
    (∀ w ∈ statusWords, p w) ↔
      (p 0x000#32 ∧ p 0x001#32 ∧ p 0x002#32 ∧ p 0x112#32 ∧ p 0x212#32 ∧ p 0x312#32 ∧ p 0x122#32 ∧ p 0x222#32 ∧
        p 0x132#32 ∧ p 0x232#32 ∧ p 0x332#32 ∧ p 0x432#32 ∧ p 0x532#32 ∧ p 0x632#32 ∧ p 0x732#32 ∧ p 0x832#32 ∧
        p 0x142#32 ∧ p 0x242#32) := by
  rw [statusWords_eq]
  simp only [List.forall_mem_cons, List.not_mem_nil, false_imp_iff, implies_true, and_true]

end Sys2Proof.Safety

namespace Sys2Proof.Machine

/-- A run of `k + 1` steps whose first step answers `t` is the run of `k` steps from `t`. -/
theorem core_run_next (k : Nat) {s t : State} (h : step s = .next t) :
    Host.Core.run core (k + 1) s = Host.Core.run core k t := by
  have h' : core.step s = .next t := h
  simp only [Host.Core.run, h']

end Sys2Proof.Machine

namespace Sys2Proof.Safety

open Sys2Proof.Machine

/-- A host keeps its duties for `k + 1` steps when the first step answers a next state from which it keeps them for `k`. -/
theorem DutiesKept.of_next {k : Nat} {s t : State} (h : step s = .next t) (ht : DutiesKept k t) : DutiesKept (k + 1) s := by
  refine ⟨fun r hr => ?_, fun u hu => ?_⟩
  · rw [h] at hr; cases hr
  · rw [h] at hu; cases hu; exact ht

end Sys2Proof.Safety
end

