-- ==== Sys2Proof/Laws/Run.lean ====
section
/-! SUPPORT. The end of a run and the observation, each said once. -/

namespace Sys2Proof.Machine

@[simp] theorem Event.isHost_host (op : HostOp) : (Event.host op).isHost = true := rfl
@[simp] theorem Event.isHost_engine : Event.engine.isHost = false := rfl
@[simp] theorem Event.isHost_reset : Event.reset.isHost = false := rfl

/-- The host is done exactly when no host operation is on the agenda. -/
theorem State.hostDone_iff (s : State) : s.hostDone = true ↔ ∀ op, Event.host op ∉ s.agenda := by
  unfold State.hostDone
  rw [List.all_eq_true]
  constructor
  · intro h op hop
    simpa using h _ hop
  · intro h e he
    cases e with
    | host op => exact absurd he (h op)
    | engine => rfl
    | reset => rfl

theorem State.runEnded_iff (s : State) : s.runEnded = true ↔ s.hostDone = true ∧ s.phase = .idle := by
  simp [State.runEnded]

@[simp] theorem RegName.mem_all (r : RegName) : r ∈ RegName.all := by cases r <;> decide

/-- The observation shows each register's word, and no other. -/
theorem State.mem_observe_regs (s : State) (nCin nPin nOut : Nat) (r : RegName) (w : Word) :
    (r, w) ∈ (s.observe nCin nPin nOut).regs ↔ w = s.regWord r := by
  simp only [State.observe, List.mem_map, Prod.mk.injEq]
  constructor
  · rintro ⟨q, -, rfl, rfl⟩; rfl
  · rintro rfl; exact ⟨r, RegName.mem_all r, rfl, rfl⟩

theorem State.getElem?_pixels (s : State) (b : BufId) (n i : Nat) :
    (s.pixels b n)[i]? = if i < n then some (s.pixel b i) else none := by
  unfold State.pixels
  split
  · next h => simp [h]
  · next h => simp; omega

end Sys2Proof.Machine

namespace Sys2Proof.Safety

open Sys2Proof.Machine

theorem runEnded_iff (s : State) : RunEnded s ↔ s.hostDone = true ∧ s.phase = .idle := s.runEnded_iff

/-- A run that has not ended, and whose next step ends it with no reset, ends in one step. -/
theorem RunEndsIn.of_step {s t : State} (hs : ¬ RunEnded s) (h : step s = .next t) (ht : RunEnded t)
    (he : t.epoch = s.epoch) : RunEndsIn 1 s t := by
  refine ⟨core_run_next 0 h, ht, fun j hj u hu => ?_, he⟩
  obtain rfl : j = 0 := by omega
  cases hu
  exact hs

/-- A run has one end. -/
theorem RunEndsIn.unique {k l : Nat} {s t u : State} (h : RunEndsIn k s t) (h' : RunEndsIn l s u) : k = l ∧ t = u := by
  have e : k = l := by
    rcases Nat.lt_trichotomy k l with hlt | rfl | hlt
    · exact absurd h.ended (h'.first k hlt t h.reaches)
    · rfl
    · exact absurd h'.ended (h.first l hlt u h'.reaches)
  subst e
  have := h.reaches.symm.trans h'.reaches
  cases this
  exact ⟨rfl, rfl⟩

end Sys2Proof.Safety
end

