-- ==== Sys2Proof/Laws/Step.lean ====
section
/-! SUPPORT. What a host operation, the engine's turn and one step can do, each said once, with its guards. -/

namespace Sys2Proof.Machine

/-- What the engine's step does: it always answers a next state, of one of the shapes of `Ended`. -/
theorem engineStep_ended (s : State) : ∃ t, engineStep s = .next t ∧ Ended s t := by
  unfold engineStep
  split
  · exact exec_ended _ _
  · exact ⟨_, rfl, .failed (by decide)⟩
  · exact ⟨_, rfl, .failed (by decide)⟩

/-- What a write to a register can do. -/
theorem State.writeReg_cases (s : State) (r : RegName) (w : Word) :
    (s.phase = .busy ∧ s.writeReg r w = s) ∨
    (s.phase = .idle ∧ r = .cmd ∧ s.writeReg r w = s.acceptCommand w) ∨
    (s.phase = .idle ∧ r = .carW ∧ s.writeReg r w = { s with carW := w }) ∨
    (s.phase = .idle ∧ r = .carH ∧ s.writeReg r w = { s with carH := w }) ∨
    (s.phase = .idle ∧ r = .payW ∧ s.writeReg r w = { s with payW := w.setWidth 18 }) ∨
    (s.phase = .idle ∧ r = .payH ∧ s.writeReg r w = { s with payH := w.setWidth 18 }) ∨
    (s.phase = .idle ∧ (r = .status ∨ r = .hdrW ∨ r = .hdrH ∨ r = .hdrParams) ∧ s.writeReg r w = s) := by
  unfold State.writeReg
  cases hp : s.phase <;> cases r <;> simp

/-- What a host operation can do when it is not refused, with its guard. -/
theorem hostStep_cases {op : HostOp} {s t : State} (h : hostStep op s = .next t) :
    (∃ off w, op = .wr off 4 w ∧ accessRefusal off 4 = none ∧ t = s.writeOffset off w) ∨
    (∃ off, op = .rd off 4 ∧ accessRefusal off 4 = none ∧ t = s.readAndNote off) ∨
    (∃ b i px, op = .put b i px ∧ s.phase = .idle ∧ t = s.putPixel b i px) ∨
    (∃ b i, op = .get b i ∧ s.phase = .idle ∧ t = s.note (.pixel b i (s.pixel b i))) ∨
    (∃ i, op = .copyOut i ∧ s.phase = .idle ∧
      t = (s.note (.pixel .out i (s.pixel .out i))).putPixel .cin i (s.pixel .out i)) ∨
    (op = .wait ∧ t = s.poll) := by
  have size4 : ∀ {off size}, accessRefusal off size = none → size = 4 := by
    intro off size hr
    by_contra hne
    simp [accessRefusal, hne] at hr
  cases op with
  | wr off size w =>
    cases hr : accessRefusal off size with
    | some r => simp [hostStep, hr] at h
    | none =>
      obtain rfl := size4 hr
      exact .inl ⟨off, w, rfl, hr, by simpa [hostStep, hr] using h.symm⟩
  | rd off size =>
    cases hr : accessRefusal off size with
    | some r => simp [hostStep, hr] at h
    | none =>
      obtain rfl := size4 hr
      exact .inr (.inl ⟨off, rfl, hr, by simpa [hostStep, hr] using h.symm⟩)
  | put b i px =>
    cases hp : s.phase with
    | busy => simp [hostStep, hp] at h
    | idle => exact .inr (.inr (.inl ⟨b, i, px, rfl, rfl, by simpa [hostStep, hp] using h.symm⟩))
  | get b i =>
    cases hp : s.phase with
    | busy => simp [hostStep, hp] at h
    | idle => exact .inr (.inr (.inr (.inl ⟨b, i, rfl, rfl, by simpa [hostStep, hp] using h.symm⟩)))
  | copyOut i =>
    cases hp : s.phase with
    | busy => simp [hostStep, hp] at h
    | idle => exact .inr (.inr (.inr (.inr (.inl ⟨i, rfl, rfl, by simpa [hostStep, hp] using h.symm⟩))))
  | wait => exact .inr (.inr (.inr (.inr (.inr ⟨rfl, by simpa [hostStep] using h.symm⟩))))

/-- Taking nothing off an empty agenda changes nothing. -/
theorem State.popAgenda_of_nil {s : State} (h : s.agenda = []) : s.popAgenda = s := by
  cases s; simp_all [State.popAgenda]

/-- What one step can do: the engine's turn, an idle turn, a host operation or a reset, each with its guard. -/
theorem step_cases {s t : State} (h : step s = .next t) :
    ((s.agenda = [] ∨ ∃ rest, s.agenda = .engine :: rest) ∧ s.phase = .busy ∧ Ended s.popAgenda t ∧
      engineStep s.popAgenda = .next t) ∨
    ((s.agenda = [] ∨ ∃ rest, s.agenda = .engine :: rest) ∧ s.phase = .idle ∧ t = s.popAgenda) ∨
    (∃ op rest, s.agenda = .host op :: rest ∧ hostStep op s.popAgenda = .next t) ∨
    (∃ rest, s.agenda = .reset :: rest ∧ t = s.popAgenda.resetBlock) := by
  have turn : ∀ {u : State}, engineTurn u = .next t →
      (u.phase = .busy ∧ Ended u t ∧ engineStep u = .next t) ∨ (u.phase = .idle ∧ t = u) := by
    intro u hu
    cases hp : u.phase with
    | idle => exact .inr ⟨rfl, by simpa [engineTurn, hp] using hu.symm⟩
    | busy =>
      have hs : engineStep u = .next t := by simpa [engineTurn, hp] using hu
      obtain ⟨t', ht', he⟩ := engineStep_ended u
      obtain rfl : t' = t := by rw [ht'] at hs; cases hs; rfl
      exact .inl ⟨rfl, he, hs⟩
  unfold step stepAgenda at h
  split at h
  · next ha =>
    rw [← State.popAgenda_of_nil ha] at h
    rcases turn h with ⟨hp, he, hs⟩ | ⟨hp, he⟩
    · exact .inl ⟨.inl ha, hp, he, hs⟩
    · exact .inr (.inl ⟨.inl ha, hp, he⟩)
  · next rest ha =>
    rcases turn h with ⟨hp, he, hs⟩ | ⟨hp, he⟩
    · exact .inl ⟨.inr ⟨rest, ha⟩, hp, he, hs⟩
    · exact .inr (.inl ⟨.inr ⟨rest, ha⟩, hp, he⟩)
  · next op rest ha => exact .inr (.inr (.inl ⟨op, rest, ha, h⟩))
  · next rest ha => exact .inr (.inr (.inr ⟨rest, ha, by cases h; rfl⟩))

end Sys2Proof.Machine
end

