-- ==== Sys2Proof/Tests/Slice0.lean ====
section
/-! SUPPORT. The model's own tests. The expected values are those of spec/95_test_vectors.md, by the vector's name, or worked
by hand from the rule named. The last part gives, for every statement with hypotheses, a state and operands that meet them. -/

namespace Sys2Proof.Tests

set_option Elab.async false

open Sys2Proof Sys2Proof.Machine Sys2Proof.Safety Sys2Proof.Claims

/-! ### Helpers -/

/-- A buffer holding these pixels, the first at index `p`. -/
def flat (p : Nat) : List Pixel → Memory
  | [] => []
  | px :: rest => (sampleKey p 0, px.c0) :: (sampleKey p 1, px.c1) :: (sampleKey p 2, px.c2) :: flat (p + 1) rest

/-- An IDLE block with these dimensions, CIN and PIN, everything else as after reset. -/
def block (carW carH payW payH : Nat) (cin pin : List Pixel) : State :=
  { State.reset with
    carW := BitVec.ofNat 32 carW
    carH := BitVec.ofNat 32 carH
    payW := BitVec.ofNat 18 payW
    payH := BitVec.ofNat 18 payH
    cin := flat 0 cin
    pin := flat 0 pin }

/-- The state after a command, or the state before it if there is none. -/
def after (i : Instr) (s : State) : State :=
  match exec i s with
  | .next t => t
  | .fault _ => s
  | .refused _ => s

/-- The state after one step, or the state before it if there is none. -/
def stepped (s : State) : State :=
  match step s with
  | .next t => t
  | .fault _ => s
  | .refused _ => s

/-- The block once the host has copied OUT to CIN. -/
def copied (s : State) : State := { s with cin := s.out }

/-- The block with this host operation next. -/
def hosted (s : State) (op : HostOp) : State := { s with agenda := [.host op] }

/-- The block right after an accepted CMD write, the engine's turn next. -/
def issued (s : State) (w : Word) : State := s.withFetchWord 32 w.toNat

/-- OUT's pixels at these indices. -/
def outs (s : State) (is : List Nat) : List Pixel := is.map (fun i => s.pixel .out i)

def black : Pixel := ⟨0, 0, 0⟩

/-! ### WellFormed: an ill-formed operand for each check -/

theorem test_wf_largest_operands : (Instr.embed 15 15).wf = true ∧ (Instr.hdrRead 0 0).wf = true := by decide

theorem test_wf_refuses_bps : (Instr.embed 16 1).bpsFits = false ∧ (Instr.embed 16 1).wf = false := by decide

theorem test_wf_refuses_sf : (Instr.hdrWrite 8 16).sfFits = false ∧ (Instr.hdrWrite 8 16).wf = false := by decide

theorem test_assemble_refuses_ill_formed :
    assemble (.payEncode 16 1) = none ∧ assemble (.payDecode 1 16) = none ∧ assemble (.hdrRead 8 8) = none ∧
    assemble (.extract 0 0) = some 0x6 := by decide

/-! ### Decode: words of part 2 of the vectors, and words written out field by field (RES SF BPS OP, R70) -/

theorem test_decode_hdrWrite : decode 0b00000000000000000000_0011_0110_0001 = .command (.hdrWrite 6 3) := by decide

theorem test_decode_hdrRead :
    decode 0b00000000000000000000_0000_0000_0010 = .command (.hdrRead 0 0) ∧ decode 0x882 = .command (.hdrRead 8 8) := by decide

theorem test_decode_payEncode : decode 0b00000000000000000000_0010_1000_0011 = .command (.payEncode 8 2) := by decide

theorem test_decode_payDecode : decode 0b00000000000000000000_0011_0110_0100 = .command (.payDecode 6 3) := by decide

theorem test_decode_embed :
    decode 0b00000000000000000000_0001_1000_0101 = .command (.embed 8 1) ∧ decode 0xFF5 = .command (.embed 15 15) := by decide

theorem test_decode_extract :
    decode 0b00000000000000000000_0000_0000_0110 = .command (.extract 0 0) ∧ decode 0x116 = .command (.extract 1 1) := by decide

theorem test_decode_illegal :
    decode 0x0 = .rejected .reservedOpcode ∧ decode 0x7 = .rejected .reservedOpcode ∧
    decode 0xF = .rejected .reservedOpcode ∧ decode 0x1000 = .rejected .reservedOpcode ∧
    decode 0x1005 = .rejected .reservedBits ∧ decode 0x80000002 = .rejected .reservedBits := by decide

theorem test_decodeTableWord :
    decodeTableWord 32 0x225 = some (.embed 2 2) ∧ decodeTableWord 32 0x1005 = none ∧ decodeTableWord 32 0x7 = none := by decide

theorem test_fetch_runs_the_word :
    stepped (State.reset.withFetchWord 32 0x255) = { State.reset with cmd := 0x255, status := 0x312 } := by decide

/-! ### The commands -/

/-- V-H2. -/
def vH2 : State := block 3 3 0x2ABCD 0x15432 (List.replicate 9 ⟨0xAA, 0x55, 0xF0⟩) []

theorem test_hdrWrite_V_H2 :
    outs (after (.hdrWrite 6 3) vH2) [0, 1, 2, 3, 4, 5, 6, 7, 8] =
      [⟨0xA9, 0x57, 0xF0⟩, ⟨0xAB, 0x57, 0xF2⟩, ⟨0xAA, 0x56, 0xF2⟩, ⟨0xAA, 0x54, 0xF3⟩, ⟨0xA8, 0x54, 0xF1⟩,
        ⟨0xA9, 0x55, 0xF1⟩, ⟨0xAA, 0x55, 0xF0⟩, ⟨0xAB, 0x54, 0xF0⟩, ⟨0xAA, 0x55, 0xF0⟩] := by decide +kernel

theorem test_hdrWrite_V_H1 :
    outs (after (.hdrWrite 8 8) (block 3 3 0x3FFFF 0x3FFFF (List.replicate 9 ⟨0xFF, 0xFF, 0xFF⟩) [])) [5, 6, 7] =
      [⟨0xFF, 0xFF, 0xFF⟩, ⟨0xFC, 0xFE, 0xFF⟩, ⟨0xFC, 0xFE, 0xFF⟩] := by decide +kernel

/-- V-H6. -/
def vH6 : State :=
  block 8 1 0 0 [⟨0xA5, 0x4D, 0xCA⟩, ⟨0x18, 0x25, 0x30⟩, ⟨0xBB, 0x1D, 0x6D⟩, ⟨0x13, 0x2C, 0xDE⟩, ⟨0xD6, 0x23, 0x7B⟩,
    ⟨0x2E, 0xD9, 0x1E⟩, ⟨0x3F, 0x72, 0x1F⟩, ⟨0xCB, 0x19, 0x71⟩] []

theorem test_hdrRead_V_H6 :
    (after (.hdrRead 0 0) vH6).hdrW = 0x17125 ∧ (after (.hdrRead 0 0) vH6).hdrH = 0x26FA3 ∧
    (after (.hdrRead 0 0) vH6).hdrParams = 0x7B ∧ (after (.hdrRead 0 0) vH6).status = 0x232 := by decide +kernel

theorem test_hdrRead_zero_carrier :
    (after (.hdrRead 8 8) (block 4 4 0 0 (List.replicate 16 black) [])).status = 0x532 := by decide +kernel

/-- V-P2, with a carrier of `cap` pixels. -/
def vP2 (cap : Nat) : State :=
  block cap 1 2 1 (List.replicate cap ⟨0xAA, 0xAA, 0xAA⟩) [⟨0xB5, 0x00, 0xFF⟩, ⟨0x12, 0x34, 0x56⟩]

theorem test_payEncode_V_P2 :
    outs (after (.payEncode 8 2) (vP2 12)) [7, 8, 9, 10, 11] =
      [⟨0xAA, 0xAA, 0xAA⟩, ⟨0xAB, 0xA0, 0xAF⟩, ⟨0xA5, 0xA0, 0xAF⟩, ⟨0xA1, 0xA3, 0xA5⟩, ⟨0xA2, 0xA4, 0xA6⟩] := by
  decide +kernel

theorem test_payEncode_cut_run :
    (after (.payEncode 8 2) (vP2 11)).status = 0x2 ∧ (after (.payEncode 8 2) (vP2 11)).pixel .out 10 = ⟨0xA1, 0xA3, 0xA5⟩ ∧
    (after (.payEncode 8 2) (vP2 11)).out.length = 33 := by decide +kernel

/-- V-P4: run samples FF and FE in every channel. -/
def vP4 : State := block 10 1 1 1 (List.replicate 8 black ++ [⟨0xFF, 0xFF, 0x01⟩, ⟨0xFE, 0xFE, 0x01⟩]) []

theorem test_payDecode_V_P4 : (after (.payDecode 2 2) vP4).pixel .out 0 = ⟨0x80, 0x80, 0xC0⟩ := by decide +kernel

/-- P5, the EMBED OUT row in CIN. -/
def p5 : State :=
  block 4 4 2 1 [⟨0x06, 0x00, 0xC8⟩, ⟨0x28, 0x5C, 0xD4⟩, ⟨0x4C, 0xB8, 0xE0⟩, ⟨0x75, 0x14, 0xEC⟩, ⟨0x98, 0x6C, 0xFC⟩,
    ⟨0xBC, 0xC8, 0x08⟩, ⟨0xE2, 0x25, 0x16⟩, ⟨0x0B, 0x80, 0x23⟩, ⟨0x2E, 0xD9, 0x30⟩, ⟨0x53, 0x37, 0x3C⟩, ⟨0x75, 0x93, 0x48⟩,
    ⟨0x9F, 0xEE, 0x54⟩, ⟨0xC3, 0x44, 0x67⟩, ⟨0xE7, 0xA0, 0x73⟩, ⟨0x0B, 0xFD, 0x7E⟩, ⟨0x30, 0x58, 0x8B⟩] []

theorem test_payDecode_P5 : outs (after (.payDecode 6 3) p5) [0, 1] = [⟨0xB4, 0x7C, 0x00⟩, ⟨0xFC, 0x80, 0x3C⟩] := by
  decide +kernel

/-- V-X1. -/
def vX1 : State := block 4 4 1 1 (List.replicate 16 ⟨0x5A, 0xC3, 0x00⟩) [⟨0xB5, 0x7E, 0x01⟩]

theorem test_embed_V_X1 :
    outs (after (.embed 8 8) vX1) [0, 1, 6, 7, 8, 9, 15] =
      [⟨0x59, 0xC0, 0x00⟩, ⟨0x58, 0xC0, 0x00⟩, ⟨0x58, 0xC2, 0x00⟩, ⟨0x58, 0xC2, 0x00⟩, ⟨0x5B, 0xC2, 0x00⟩,
        ⟨0x5A, 0xC3, 0x00⟩, ⟨0x5B, 0xC2, 0x01⟩] := by decide +kernel

/-- V-X2. -/
def vX2 : State := block 10 1 2 1 (List.replicate 10 ⟨0x5A, 0xC3, 0x00⟩) [⟨0xB5, 0x7E, 0x01⟩, ⟨0x01, 0x02, 0x03⟩]

theorem test_embed_V_X2 :
    outs (after (.embed 8 1) vX2) [0, 3, 6, 7, 8, 9] =
      [⟨0x5A, 0xC0, 0x00⟩, ⟨0x59, 0xC0, 0x00⟩, ⟨0x58, 0xC2, 0x00⟩, ⟨0x59, 0xC0, 0x00⟩, ⟨0xB5, 0x7E, 0x01⟩,
        ⟨0x01, 0x02, 0x03⟩] := by decide +kernel

theorem test_extract_P5 :
    (after (.extract 0 0) p5).hdrW = 2 ∧ (after (.extract 0 0) p5).hdrH = 1 ∧ (after (.extract 0 0) p5).hdrParams = 0x36 ∧
    outs (after (.extract 0 0) p5) [0, 1] = [⟨0xB4, 0x7C, 0x00⟩, ⟨0xFC, 0x80, 0x3C⟩] := by decide +kernel

/-- V-H7, the accepted false positive. -/
def vH7 : State :=
  block 8 1 0 0 (List.replicate 6 ⟨0x10, 0x20, 0x30⟩ ++ [⟨0x41, 0x50, 0x60⟩, ⟨0x71, 0x80, 0x90⟩]) []

theorem test_extract_V_H7 :
    (after (.extract 1 1) vH7).status = 0x2 ∧ (after (.extract 1 1) vH7).hdrParams = 0x11 ∧
    (after (.extract 1 1) vH7).out = [] := by decide +kernel

/-! ### Registers and handshake (part 7 of the vectors) -/

theorem test_V_R2_accept :
    (stepped (hosted vX1 (.wr 0x00 4 0x225))).status = 0x1 ∧ (stepped (hosted vX1 (.wr 0x00 4 0x225))).cmd = 0x225 := by
  decide

theorem test_V_R5_pay_width : (stepped (hosted vX1 (.wr 0x10 4 0x00040001))).payW = 1 := by decide

theorem test_V_R7_reserved_reads_zero : (stepped (hosted vX1 (.rd 0x24 4))).notes = [.reg 0x24 0] := by decide

/-! ### Witnesses: encoding and decode order -/

theorem test_witness_DecodeEncodeAgree : (Instr.embed 15 15).wf = true ∧ (Instr.hdrWrite 0 0).wf = true := by decide

theorem test_witness_EncodeDecodeAgree : decode 0x00000FF6 = .command (.extract 15 15) := by decide

/-- R87, and the largest operands. -/
theorem test_witness_AssemblerEncodesFourBitOperands :
    assemble (.embed 5 2) = some 0x255 ∧ assemble (.hdrWrite 15 15) = some 0xFF1 := by decide

/-- BUSY with the word, the engine's turn next. -/
theorem engineNext_issued (s : State) (w : Word) : EngineNext (issued s w) := .inr ⟨s.agenda, rfl⟩

theorem test_witness_StepRunsDecodedCommand :
    EngineNext (issued vX1 0x885) ∧ (issued vX1 0x885).phase = .busy ∧
    decode (issued vX1 0x885).cmd = .command (.embed 8 8) := ⟨engineNext_issued _ _, rfl, by decide⟩

/-- The clauses at their boundaries: OP 0, 7 and 15; OP 1 and 6 with the lowest and the highest reserved bit; every field at
its largest value. -/
theorem test_witness_StepFollowsDecodeOrder :
    (EngineNext (issued vX1 0x0) ∧ (issued vX1 0x0).phase = .busy) ∧
    ((issued vX1 0x0).cmd.toNat % 16 = 0 ∧ 7 ≤ (issued vX1 0x7).cmd.toNat % 16 ∧ 7 ≤ (issued vX1 0xF).cmd.toNat % 16) ∧
    ((issued vX1 0x1001).cmd.toNat % 16 = 1 ∧ (issued vX1 0x1001).cmd.toNat / 4096 ≠ 0) ∧
    ((issued vX1 0x80000006).cmd.toNat % 16 = 6 ∧ (issued vX1 0x80000006).cmd.toNat / 4096 ≠ 0) ∧
    ((Instr.extract 15 15).op = (issued vX1 0xFF6).cmd.toNat % 16 ∧
      (Instr.extract 15 15).bps = (issued vX1 0xFF6).cmd.toNat / 16 % 16 ∧
      (Instr.extract 15 15).sf = (issued vX1 0xFF6).cmd.toNat / 256 % 16 ∧ (issued vX1 0xFF6).cmd.toNat / 4096 = 0) ∧
    ((Instr.hdrWrite 0 0).op = (issued vX1 0x1).cmd.toNat % 16 ∧ (issued vX1 0x1).cmd.toNat / 4096 = 0) :=
  ⟨⟨engineNext_issued _ _, rfl⟩, by decide, by decide, by decide, by decide, by decide⟩

theorem test_witness_EngineStepCompletes : EngineNext (issued vX1 0x1005) ∧ (issued vX1 0x1005).phase = .busy :=
  ⟨engineNext_issued _ _, rfl⟩

/-- Both ways HDR_* change: a header read, and a reset. -/
theorem test_witness_HdrRegistersChangeOnlyOnHeaderRead :
    (step (issued vH7 0x2) = .next (stepped (issued vH7 0x2)) ∧ (stepped (issued vH7 0x2)).hdrParams ≠ vH7.hdrParams) ∧
    (step { vH7 with hdrW := 5, agenda := [.reset] } = .next (stepped { vH7 with hdrW := 5, agenda := [.reset] }) ∧
      (stepped { vH7 with hdrW := 5, agenda := [.reset] }).hdrW ≠ 5) :=
  ⟨⟨rfl, by decide +kernel⟩, rfl, by decide⟩

/-! ### Witnesses: parameters and capacity -/

theorem test_witness_IllegalPairsFail :
    ParamDetail 0 1 1 ∧ ParamDetail 9 9 1 ∧ ParamDetail 1 0 2 ∧ ParamDetail 8 9 2 ∧ ParamDetail 5 2 3 ∧ ParamDetail 1 8 3 := by
  simp [ParamDetail]

theorem legal_1_1 : LegalPair 1 1 := by unfold LegalPair; decide
theorem legal_2_2 : LegalPair 2 2 := by unfold LegalPair; decide
theorem legal_6_3 : LegalPair 6 3 := by unfold LegalPair; decide
theorem legal_8_1 : LegalPair 8 1 := by unfold LegalPair; decide
theorem legal_8_2 : LegalPair 8 2 := by unfold LegalPair; decide
theorem legal_8_8 : LegalPair 8 8 := by unfold LegalPair; decide

theorem test_witness_SmallCarriersFail :
    (LegalPair 8 8 ∧ (block 7 1 0 0 [] []).carW.toNat * (block 7 1 0 0 [] []).carH.toNat < 8) ∧
    (LegalPair 2 2 ∧ (block 9 1 1 1 [] []).carW.toNat * (block 9 1 1 1 [] []).carH.toNat <
      8 + (block 9 1 1 1 [] []).payW.toNat * (block 9 1 1 1 [] []).payH.toNat * 2) :=
  ⟨⟨legal_8_8, by decide⟩, legal_2_2, by decide⟩

/-- S3: 10 pixels, then 9. -/
theorem test_witness_EmbedCapacityBoundary :
    LegalPair 2 2 ∧
    (block 10 1 1 1 [] []).carW.toNat * (block 10 1 1 1 [] []).carH.toNat =
      8 + (block 10 1 1 1 [] []).payW.toNat * (block 10 1 1 1 [] []).payH.toNat * 2 ∧
    (block 9 1 1 1 [] []).carW.toNat * (block 9 1 1 1 [] []).carH.toNat =
      8 + (block 9 1 1 1 [] []).payW.toNat * (block 9 1 1 1 [] []).payH.toNat * 2 - 1 := ⟨legal_2_2, by decide, by decide⟩

/-! ### Witnesses: the Header Codec -/

theorem test_witness_HdrWriteRecordsHeader :
    (LegalPair 6 3 ∧ 8 ≤ vH2.carW.toNat * vH2.carH.toNat) ∧ (LegalPair 8 8 ∧ 8 ≤ vH6.carW.toNat * vH6.carH.toNat) :=
  ⟨⟨legal_6_3, by decide⟩, legal_8_8, by decide⟩

/-- HeaderHeld with its ranges bounded, so that the kernel evaluates it. -/
theorem held_of_bounded {st : State} {buf : BufId} {w h b s : Nat}
    (hr : w < 2 ^ 18 ∧ h < 2 ^ 18 ∧ b < 2 ^ 4 ∧ s < 2 ^ 4)
    (hw : ∀ p < 3, ∀ j < 3, ∀ c < 2, (st.sample buf p j).getLsbD c = w.testBit (6 * p + 2 * j + c))
    (hh : ∀ p < 3, ∀ j < 3, ∀ c < 2, (st.sample buf (3 + p) j).getLsbD c = h.testBit (6 * p + 2 * j + c))
    (hb : ∀ j < 2, ∀ c < 2, (st.sample buf 6 j).getLsbD c = b.testBit (2 * j + c))
    (hs : ∀ j < 2, ∀ c < 2, (st.sample buf 7 j).getLsbD c = s.testBit (2 * j + c)) : HeaderHeld st buf w h b s :=
  ⟨hr.1, hr.2.1, hr.2.2.1, hr.2.2.2, fun p j c hp hj hc => hw p hp j hj c hc, fun p j c hp hj hc => hh p hp j hj c hc,
    fun j c hj hc => hb j hj c hc, fun j c hj hc => hs j hj c hc⟩

/-- V-H6. -/
theorem held_vH6 : HeaderHeld vH6 .cin 0x17125 0x26FA3 0xB 7 :=
  held_of_bounded (by decide) (by decide +kernel) (by decide +kernel) (by decide +kernel) (by decide +kernel)

/-- V-H7. -/
theorem held_vH7 : HeaderHeld vH7 .cin 0 0 1 1 :=
  held_of_bounded (by decide) (by decide +kernel) (by decide +kernel) (by decide +kernel) (by decide +kernel)

/-- P5. -/
theorem held_p5 : HeaderHeld p5 .cin 2 1 6 3 :=
  held_of_bounded (by decide) (by decide +kernel) (by decide +kernel) (by decide +kernel) (by decide +kernel)

theorem test_witness_HdrExtractReadsSlots : HeaderHeld vH6 .cin 0x17125 0x26FA3 0xB 7 := held_vH6

/-- V-H5, a row for each clause, with `cap = 8` and the exact fit among them. -/
theorem test_witness_HeaderCheckReportsFirstCondition :
    HeaderVerdict 3 3 8 1 16 2 ∧ HeaderVerdict 1 1 2 9 100 3 ∧ HeaderVerdict 1 1 9 1 100 4 ∧ HeaderVerdict 1 1 0 1 100 5 ∧
    HeaderVerdict 1 1 4 0 100 6 ∧ HeaderVerdict 1 1 5 2 100 7 ∧ HeaderVerdict 2 2 8 2 15 8 ∧ HeaderVerdict 2 2 8 2 16 0 ∧
    HeaderVerdict 0 5 8 8 8 0 ∧ HeaderVerdict 1 1 15 15 8 2 ∧ HeaderVerdict 0 0 0 0 8 5 := by
  simp [HeaderVerdict]

/-- A header that passes, and one that fails. -/
theorem test_witness_HdrReadReportsHeader :
    (8 ≤ vH7.carW.toNat * vH7.carH.toNat ∧ HeaderHeld vH7 .cin 0 0 1 1 ∧
      HeaderVerdict 0 0 1 1 (vH7.carW.toNat * vH7.carH.toNat) 0) ∧
    (8 ≤ vH6.carW.toNat * vH6.carH.toNat ∧ HeaderHeld vH6 .cin 0x17125 0x26FA3 0xB 7 ∧
      HeaderVerdict 0x17125 0x26FA3 0xB 7 (vH6.carW.toNat * vH6.carH.toNat) 2) :=
  ⟨⟨by decide, held_vH7, by unfold HeaderVerdict; decide⟩, by decide, held_vH6, by unfold HeaderVerdict; decide⟩

theorem test_witness_ShortCarrierHasNoHeader :
    (block 7 1 0 0 [] []).carW.toNat * (block 7 1 0 0 [] []).carH.toNat < 8 ∧
    State.reset.carW.toNat * State.reset.carH.toNat < 8 := by decide

theorem copied_of_bounded {t : State}
    (h : ∀ i < t.cap, ∀ j < 3, (copied t).sample .cin i j = t.sample .out i j) : CarrierCopied t (copied t) :=
  ⟨rfl, rfl, fun i j hi hj => h i hi j hj⟩

theorem test_witness_HeaderRoundTrip :
    LegalPair 6 3 ∧ 8 ≤ vH2.carW.toNat * vH2.carH.toNat ∧ exec (.hdrWrite 6 3) vH2 = .next (after (.hdrWrite 6 3) vH2) ∧
    CarrierCopied (after (.hdrWrite 6 3) vH2) (copied (after (.hdrWrite 6 3) vH2)) :=
  ⟨legal_6_3, by decide, rfl, copied_of_bounded (by decide +kernel)⟩

/-- V-H7 and a carrier that differs from it in bits 7 to 2, in channel 2 of pixels 6 and 7, and in the payload's size. -/
def vH7' : State :=
  block 8 1 9 9 (List.replicate 6 ⟨0xFC, 0xF0, 0x04⟩ ++ [⟨0xFD, 0x0C, 0xFF⟩, ⟨0x0D, 0x38, 0x03⟩]) [black]

theorem test_witness_HeaderReadSeesOnlySlotBits :
    vH7'.carW = vH7.carW ∧ vH7'.carH = vH7.carH ∧ 8 ≤ vH7.carW.toNat * vH7.carH.toNat ∧
    ∀ i j c, i < 8 → j < 3 → SlotBit i j c → (vH7'.sample .cin i j).getLsbD c = (vH7.sample .cin i j).getLsbD c := by
  refine ⟨rfl, rfl, by decide, ?_⟩
  have h : ∀ i < 6, ∀ j < 3, ∀ c < 2, (vH7'.sample .cin i j).getLsbD c = (vH7.sample .cin i j).getLsbD c := by
    decide +kernel
  have h6 : ∀ j < 2, ∀ c < 2, (vH7'.sample .cin 6 j).getLsbD c = (vH7.sample .cin 6 j).getLsbD c := by decide +kernel
  have h7 : ∀ j < 2, ∀ c < 2, (vH7'.sample .cin 7 j).getLsbD c = (vH7.sample .cin 7 j).getLsbD c := by decide +kernel
  rintro i j c - hj ⟨hc, hi | ⟨rfl | rfl, hj2⟩⟩
  · exact h i hi j hj c hc
  · exact h6 j hj2 c hc
  · exact h7 j hj2 c hc

/-! ### Witnesses: the Payload Codec -/

theorem test_witness_ChunksAreTopBitsInOrder :
    (LegalPair 1 1 ∧ 0 < 1) ∧ (LegalPair 6 3 ∧ 2 < 3) ∧ (LegalPair 8 8 ∧ 7 < 8) :=
  ⟨⟨legal_1_1, by decide⟩, ⟨legal_6_3, by decide⟩, legal_8_8, by decide⟩

theorem test_witness_GatherClosedForm : LegalPair 6 3 ∧ [0xAA, 0xAB, (0xA9 : Byte)].length = 3 := ⟨legal_6_3, rfl⟩

theorem test_witness_SpreadThenGatherKeepsTopBits : LegalPair 1 1 ∧ LegalPair 6 3 ∧ LegalPair 8 8 :=
  ⟨legal_1_1, legal_6_3, legal_8_8⟩

/-- Both sides of the equivalence. -/
theorem test_witness_RoundTripExactIffEightBits : LegalPair 8 8 ∧ LegalPair 6 3 := ⟨legal_8_8, legal_6_3⟩

/-- The clauses where they meet: the last header pixel, the first run, the last pixel of the payload's runs and the first after
them. -/
theorem test_witness_PayEncodeSpreadsPayload :
    LegalPair 2 2 ∧ (7 < vX1.carW.toNat * vX1.carH.toNat ∧ 7 < 8) ∧
    (8 ≤ 8 ∧ 8 < vX1.carW.toNat * vX1.carH.toNat ∧ (8 - 8) / 2 < vX1.payW.toNat * vX1.payH.toNat) ∧
    (9 < vX1.carW.toNat * vX1.carH.toNat ∧ (9 - 8) / 2 < vX1.payW.toNat * vX1.payH.toNat) ∧
    (10 < vX1.carW.toNat * vX1.carH.toNat ∧ vX1.payW.toNat * vX1.payH.toNat ≤ (10 - 8) / 2) :=
  ⟨legal_2_2, by decide, by decide, by decide, by decide⟩

theorem test_witness_PayDecodeGathersPayload :
    LegalPair 6 3 ∧ 8 + p5.payW.toNat * p5.payH.toNat * 3 ≤ p5.carW.toNat * p5.carH.toNat ∧
    1 < p5.payW.toNat * p5.payH.toNat := ⟨legal_6_3, by decide, by decide⟩

/-- V-P2 with `cap = 10`, where PIN p1 is never read, and the same with another PIN p1. -/
def vP2' : State := { vP2 10 with pin := flat 0 [⟨0xB5, 0x00, 0xFF⟩, ⟨0x99, 0x99, 0x99⟩] }

theorem read_pin_head (j : Nat) (hj : j < 3) : vP2'.sample .pin 0 j = (vP2 10).sample .pin 0 j := by
  have h : ∀ j < 3, vP2'.sample .pin 0 j = (vP2 10).sample .pin 0 j := by decide +kernel
  exact h j hj

theorem test_witness_UnreachedPayloadIsNotRead :
    LegalPair 8 2 ∧ vP2'.carW = (vP2 10).carW ∧ vP2'.carH = (vP2 10).carH ∧ vP2'.payW = (vP2 10).payW ∧
    vP2'.payH = (vP2 10).payH ∧ (∀ i j, j < 3 → vP2'.sample .cin i j = (vP2 10).sample .cin i j) ∧
    (∀ r j, j < 3 → 8 + r * 2 < (vP2 10).carW.toNat * (vP2 10).carH.toNat →
      vP2'.sample .pin r j = (vP2 10).sample .pin r j) ∧
    vP2'.sample .pin 1 0 ≠ (vP2 10).sample .pin 1 0 := by
  refine ⟨legal_8_2, rfl, rfl, rfl, rfl, fun _ _ _ => rfl, fun r j hj hr => ?_, by decide +kernel⟩
  have hc : (vP2 10).carW.toNat * (vP2 10).carH.toNat = 10 := by decide
  obtain rfl : r = 0 := by omega
  exact read_pin_head j hj

/-- Pixel 9 of PAY_ENCODE, whose run reads PIN p0 alone; payload pixel 0 of PAY_DECODE, whose run is p8 and p9. -/
theorem test_witness_RunsAreIndependent :
    (LegalPair 8 2 ∧ 9 < (vP2 10).carW.toNat * (vP2 10).carH.toNat ∧
      vP2'.sample .pin ((9 - 8) / 2) 0 = (vP2 10).sample .pin ((9 - 8) / 2) 0 ∧
      vP2'.sample .cin 9 0 = (vP2 10).sample .cin 9 0) ∧
    (LegalPair 2 2 ∧ 8 + vP4.payW.toNat * vP4.payH.toNat * 2 ≤ vP4.carW.toNat * vP4.carH.toNat ∧
      0 < vP4.payW.toNat * vP4.payH.toNat ∧
      ∀ k, k < 2 → { vP4 with out := [] }.sample .cin (8 + 0 * 2 + k) 2 = vP4.sample .cin (8 + 0 * 2 + k) 2) :=
  ⟨⟨legal_8_2, by decide, read_pin_head 0 (by decide), rfl⟩, legal_2_2, by decide, by decide, fun _ _ => rfl⟩

/-! ### Witnesses: EMBED and EXTRACT -/

theorem test_witness_EmbedWritesHeaderAndPayload :
    LegalPair 8 8 ∧ 8 + vX1.payW.toNat * vX1.payH.toNat * 8 ≤ vX1.carW.toNat * vX1.carH.toNat ∧
    (15 - 8) / 8 < vX1.payW.toNat * vX1.payH.toNat := ⟨legal_8_8, by decide, by decide⟩

theorem test_witness_ExtractGathersByHeader :
    8 ≤ p5.carW.toNat * p5.carH.toNat ∧ HeaderHeld p5 .cin 2 1 6 3 ∧
    HeaderVerdict 2 1 6 3 (p5.carW.toNat * p5.carH.toNat) 0 := ⟨by decide, held_p5, by unfold HeaderVerdict; decide⟩

theorem test_witness_ExtractFailsOnBadHeader :
    8 ≤ vH6.carW.toNat * vH6.carH.toNat ∧ HeaderHeld vH6 .cin 0x17125 0x26FA3 0xB 7 ∧
    HeaderVerdict 0x17125 0x26FA3 0xB 7 (vH6.carW.toNat * vH6.carH.toNat) 2 ∧ 2 ≠ 0 :=
  ⟨by decide, held_vH6, by unfold HeaderVerdict; decide, by decide⟩

theorem payloadKept_copied (t : State) : PayloadKept t (copied t) := ⟨⟨rfl, rfl⟩, fun _ _ _ _ => rfl⟩

theorem test_witness_EmbedIsHeaderThenPayload :
    LegalPair 8 1 ∧ 8 + vX2.payW.toNat * vX2.payH.toNat * 1 ≤ vX2.carW.toNat * vX2.carH.toNat ∧
    exec (.hdrWrite 8 1) vX2 = .next (after (.hdrWrite 8 1) vX2) ∧
    CarrierCopied (after (.hdrWrite 8 1) vX2) (copied (after (.hdrWrite 8 1) vX2)) ∧
    PayloadKept (after (.hdrWrite 8 1) vX2) (copied (after (.hdrWrite 8 1) vX2)) ∧
    ∀ i j, j < 3 → (copied (after (.hdrWrite 8 1) vX2)).sample .out i j = (after (.hdrWrite 8 1) vX2).sample .out i j :=
  ⟨legal_8_1, by decide, rfl, copied_of_bounded (by decide +kernel), payloadKept_copied _, fun _ _ _ => rfl⟩

theorem test_witness_EmbedThenExtractRecovers :
    exec (.embed 8 1) vX2 = .next (after (.embed 8 1) vX2) ∧ Succeeded (after (.embed 8 1) vX2) ∧
    CarrierCopied (after (.embed 8 1) vX2) (copied (after (.embed 8 1) vX2)) ∧
    1 < vX2.payW.toNat * vX2.payH.toNat :=
  ⟨rfl, ⟨by decide +kernel, by decide +kernel⟩, copied_of_bounded (by decide +kernel), by decide⟩

theorem test_witness_PayDecodeAgreesWithExtract :
    exec (.embed 8 8) vX1 = .next (after (.embed 8 8) vX1) ∧ Succeeded (after (.embed 8 8) vX1) ∧
    CarrierCopied (after (.embed 8 8) vX1) (copied (after (.embed 8 8) vX1)) ∧
    PaySame (after (.embed 8 8) vX1) (copied (after (.embed 8 8) vX1)) :=
  ⟨rfl, ⟨by decide +kernel, by decide +kernel⟩, copied_of_bounded (by decide +kernel), rfl, rfl⟩

/-- The two commands written without operands (R79). -/
theorem test_witness_HeaderReadersIgnoreParameterFields :
    assemble (.hdrRead 0 0) = some 0x2 ∧ assemble (.extract 0 0) = some 0x6 := by decide

/-- An error, and a success that writes OUT. -/
theorem test_witness_RepeatedCommandRepeats :
    exec (.embed 5 2) vX1 = .next (after (.embed 5 2) vX1) ∧ exec (.embed 8 8) vX1 = .next (after (.embed 8 8) vX1) :=
  ⟨rfl, rfl⟩

/-! ### Witnesses: the host -/

theorem hostNext_hosted (s : State) (op : HostOp) : HostNext (hosted s op) op := ⟨[], rfl⟩

theorem test_witness_CmdWriteWhileIdleIsAccepted :
    HostNext (hosted vX1 (.wr 0x00 4 0x885)) (.wr 0x00 4 0x885) ∧ (hosted vX1 (.wr 0x00 4 0x885)).phase = .idle :=
  ⟨hostNext_hosted _ _, rfl⟩

/-- V-R3: a CMD write, and a write at the last offset of the window. -/
theorem test_witness_WritesWhileBusyAreIgnored :
    (HostNext (hosted (issued vX1 0x225) (.wr 0x00 4 0x006)) (.wr 0x00 4 0x006) ∧ WindowOffset 0x00 ∧
      (hosted (issued vX1 0x225) (.wr 0x00 4 0x006)).phase = .busy) ∧
    (HostNext (hosted (issued vX1 0x225) (.wr 0x3C 4 1)) (.wr 0x3C 4 1) ∧ WindowOffset 0x3C ∧
      (hosted (issued vX1 0x225) (.wr 0x3C 4 1)).phase = .busy) :=
  ⟨⟨hostNext_hosted _ _, ⟨rfl, by decide⟩, rfl⟩, hostNext_hosted _ _, ⟨rfl, by decide⟩, rfl⟩

theorem test_witness_DimensionWritesWhileIdle :
    (hosted vX1 (.wr 0x08 4 0xFFFFFFFF)).phase = .idle ∧
    HostNext (hosted vX1 (.wr 0x08 4 0xFFFFFFFF)) (.wr 0x08 4 0xFFFFFFFF) ∧
    HostNext (hosted vX1 (.wr 0x0C 4 0xFFFFFFFF)) (.wr 0x0C 4 0xFFFFFFFF) ∧
    HostNext (hosted vX1 (.wr 0x10 4 0x00040000)) (.wr 0x10 4 0x00040000) ∧
    HostNext (hosted vX1 (.wr 0x14 4 0x0003FFFF)) (.wr 0x14 4 0x0003FFFF) :=
  ⟨rfl, hostNext_hosted _ _, hostNext_hosted _ _, hostNext_hosted _ _, hostNext_hosted _ _⟩

theorem test_witness_ReadOnlyAndReservedIgnoreWrites :
    (HostNext (hosted vX1 (.wr 0x04 4 0)) (.wr 0x04 4 0) ∧ WindowOffset 0x04 ∧ (0x04 = 0x04 ∨ 0x18 ≤ 0x04)) ∧
    (HostNext (hosted vX1 (.wr 0x18 4 5)) (.wr 0x18 4 5) ∧ WindowOffset 0x18 ∧ (0x18 = 0x04 ∨ 0x18 ≤ 0x18)) ∧
    (HostNext (hosted vX1 (.wr 0x3C 4 5)) (.wr 0x3C 4 5) ∧ WindowOffset 0x3C ∧ (0x3C = 0x04 ∨ 0x18 ≤ 0x3C)) :=
  ⟨⟨hostNext_hosted _ _, ⟨rfl, by decide⟩, by decide⟩, ⟨hostNext_hosted _ _, ⟨rfl, by decide⟩, by decide⟩,
    hostNext_hosted _ _, ⟨rfl, by decide⟩, by decide⟩

/-- Every offset of the window, by its word index. -/
theorem test_witness_ReadsWhileIdleReturnTheRegister :
    ∀ k < 16, HostNext (hosted vX1 (.rd (4 * k) 4)) (.rd (4 * k) 4) ∧ WindowOffset (4 * k) ∧
      (hosted vX1 (.rd (4 * k) 4)).phase = .idle :=
  fun k hk => ⟨hostNext_hosted _ _, ⟨by omega, by omega⟩, rfl⟩

theorem test_witness_ReadsWhileBusy :
    ∀ k < 16, HostNext (hosted (issued vX1 0x225) (.rd (4 * k) 4)) (.rd (4 * k) 4) ∧ WindowOffset (4 * k) ∧
      (hosted (issued vX1 0x225) (.rd (4 * k) 4)).phase = .busy :=
  fun k hk => ⟨hostNext_hosted _ _, ⟨by omega, by omega⟩, rfl⟩

/-- HDR_W while IDLE, and PAY_H and the first reserved offset while BUSY. -/
theorem test_witness_RegisterReadsAreIdempotent :
    ({ vX1 with agenda := [.host (.rd 0x18 4), .host (.rd 0x18 4)] }.phase = .idle ∧ WindowOffset 0x18) ∧
    ({ issued vX1 0x225 with agenda := [.host (.rd 0x14 4), .host (.rd 0x14 4)] }.phase = .busy ∧ WindowOffset 0x14 ∧
      0x14 < 0x18) ∧ (WindowOffset 0x24 ∧ 0x24 ≤ 0x24) :=
  ⟨⟨rfl, rfl, by decide⟩, ⟨rfl, ⟨rfl, by decide⟩, by decide⟩, ⟨rfl, by decide⟩, by decide⟩

theorem test_witness_BrokenDutiesAreRefused :
    (HostNext (hosted vX1 (.wr 0x08 2 0)) (.wr 0x08 2 0) ∧ 2 ≠ 4) ∧
    (HostNext (hosted vX1 (.rd 0x09 4)) (.rd 0x09 4) ∧ 0x09 % 4 ≠ 0) ∧
    (HostNext (hosted vX1 (.rd 0x40 4)) (.rd 0x40 4) ∧ 0x40 % 4 = 0 ∧ 64 ≤ 0x40) ∧
    (HostNext (hosted (issued vX1 0x225) (.get .out 0)) (.get .out 0) ∧
      (hosted (issued vX1 0x225) (.get .out 0)).phase = .busy) :=
  ⟨⟨hostNext_hosted _ _, by decide⟩, ⟨hostNext_hosted _ _, by decide⟩, ⟨hostNext_hosted _ _, by decide, by decide⟩,
    hostNext_hosted _ _, rfl⟩

theorem test_witness_PutAndGetOnePixel :
    (hosted vX1 (.put .pin 0 black)).phase = .idle ∧ HostNext (hosted vX1 (.put .pin 0 black)) (.put .pin 0 black) ∧
    (hosted vX1 (.get .out 0)).phase = .idle ∧ HostNext (hosted vX1 (.get .out 0)) (.get .out 0) :=
  ⟨rfl, hostNext_hosted _ _, rfl, hostNext_hosted _ _⟩

/-- Two pixels, and an empty range. -/
theorem test_witness_CopyStatementCopies :
    ({ vX1 with agenda := [.host (.copyOut 3), .host (.copyOut 4)] }.phase = .idle ∧
      { vX1 with agenda := [.host (.copyOut 3), .host (.copyOut 4)] }.agenda = hostProgram [.copy 3 4] ++ []) ∧
    vX1.agenda = hostProgram [.copy 4 3] ++ [] := by decide

/-! ### Witnesses: the invariant, reset and whole-machine rules -/

/-- The invariant of a state with one word of STATUS and canonical buffers. -/
theorem inv_vX1 : Inv vX1 :=
  ⟨by rw [statusWords_eq]; exact .head _, by decide, by decide, by decide, by decide, by decide⟩

theorem inv_issued : Inv { issued vX1 0x225 with agenda := [.host .wait] } :=
  ⟨by rw [statusWords_eq]; exact .tail _ (.head _), by decide, by decide, by decide, by decide, by decide⟩

theorem test_witness_WaitEndsWithCompletion :
    Inv { issued vX1 0x225 with agenda := [.host .wait] } ∧
    { issued vX1 0x225 with agenda := [.host .wait] }.phase = .busy := ⟨inv_issued, rfl⟩

theorem test_witness_ResetAtAnyTime :
    { issued vX1 0x225 with agenda := [.reset] }.agenda = .reset :: [] ∧
    { issued vX1 0x225 with agenda := [.reset] }.phase = .busy := ⟨rfl, rfl⟩

theorem test_witness_StepKeepsInvariant :
    Inv { issued vX1 0x225 with agenda := [.host .wait] } ∧
    step { issued vX1 0x225 with agenda := [.host .wait] } =
      .next (stepped { issued vX1 0x225 with agenda := [.host .wait] }) := ⟨inv_issued, rfl⟩

theorem test_witness_StatusFieldsAreLegal : Inv vX1 ∧ vX1.status.getLsbD 0 = false ∧ vX1.status.getLsbD 1 = false :=
  ⟨inv_vX1, by decide, by decide⟩

theorem test_witness_IdleBlockWaits : vX1.agenda = [] ∧ vX1.phase = .idle := ⟨rfl, rfl⟩

theorem test_witness_LeavesIdleOnlyByCmdWrite :
    step (hosted vX1 (.wr 0x00 4 0x885)) = .next (stepped (hosted vX1 (.wr 0x00 4 0x885))) ∧
    (hosted vX1 (.wr 0x00 4 0x885)).phase = .idle ∧ (stepped (hosted vX1 (.wr 0x00 4 0x885))).phase = .busy := by
  exact ⟨rfl, rfl, by decide⟩

/-- At acceptance, and at completion. -/
theorem test_witness_StatusWrittenOnlyAtAcceptanceAndCompletion :
    (step (hosted vX1 (.wr 0x00 4 0x885)) = .next (stepped (hosted vX1 (.wr 0x00 4 0x885))) ∧
      (stepped (hosted vX1 (.wr 0x00 4 0x885))).status ≠ (hosted vX1 (.wr 0x00 4 0x885)).status) ∧
    (step (issued vX1 0x255) = .next (stepped (issued vX1 0x255)) ∧
      (stepped (issued vX1 0x255)).status ≠ (issued vX1 0x255).status) := by
  exact ⟨⟨rfl, by decide⟩, rfl, by decide⟩

theorem test_witness_SnapshotCannotChange :
    step (hosted (issued vX1 0x225) (.wr 0x08 4 9)) = .next (stepped (hosted (issued vX1 0x225) (.wr 0x08 4 9))) ∧
    (hosted (issued vX1 0x225) (.wr 0x08 4 9)).phase = .busy ∧
    (stepped (hosted (issued vX1 0x225) (.wr 0x08 4 9))).phase = .busy := by
  exact ⟨rfl, rfl, by decide⟩

/-- BUSY, with one register write of the host to come before the engine. -/
def busyThenWrite : State := hosted (issued vX1 0x255) (.wr 0x08 4 9)

/-- The host writes a register, which is ignored, and then the engine completes: no duty is broken. -/
theorem test_witness_BusyEngineCompletes :
    busyThenWrite.phase = .busy ∧ DutiesKept (busyThenWrite.agenda.length + 1) busyThenWrite :=
  ⟨rfl, DutiesKept.of_next (t := stepped busyThenWrite) rfl
    (DutiesKept.of_next (t := stepped (stepped busyThenWrite)) rfl trivial)⟩

/-- A run whose last command has no `wait`, with a reset still listed after the engine's turn. -/
def lastCommand : State := { issued vX1 0x255 with agenda := [.engine, .reset] }

theorem noHost_of_hostDone {s : State} (h : s.hostDone = true) : NoHostLeft s.agenda := s.hostDone_iff.1 h

/-- The three clauses: a completing engine step, a last register read while IDLE, and a state in which the run has ended. -/
theorem test_witness_RunEndsAndIsObserved :
    (NoHostLeft lastCommand.agenda ∧ EngineNext lastCommand ∧ lastCommand.phase = .busy) ∧
    (Inv (hosted vX1 (.rd 0x04 4)) ∧ (hosted vX1 (.rd 0x04 4)).phase = .idle ∧ NoHostLeft [] ∧
      step (hosted vX1 (.rd 0x04 4)) = .next (stepped (hosted vX1 (.rd 0x04 4))) ∧
      (stepped (hosted vX1 (.rd 0x04 4))).phase = .idle) ∧
    RunEnded (stepped lastCommand) :=
  ⟨⟨noHost_of_hostDone rfl, .inr ⟨[.reset], rfl⟩, rfl⟩,
    ⟨⟨inv_vX1.1, inv_vX1.2, inv_vX1.3, inv_vX1.4, inv_vX1.5, inv_vX1.6⟩, rfl, by simp [NoHostLeft], rfl, by decide⟩,
    show (stepped lastCommand).runEnded = true by decide⟩

/-- What is observed after V-X1's EMBED: CMD and STATUS, and the first carrier pixel. -/
theorem test_observe_V_X1 :
    ((stepped (issued vX1 0x885)).observe 1 0 1).regs.take 2 = [(.cmd, 0x885), (.status, 0x2)] ∧
    ((stepped (issued vX1 0x885)).observe 1 0 1).cin = [⟨0x5A, 0xC3, 0x00⟩] ∧
    ((stepped (issued vX1 0x885)).observe 1 0 1).out = [⟨0x59, 0xC0, 0x00⟩] := by decide +kernel

/-- The first and the last pixel of a 4 by 2 grid, and the step from the end of a row to the next. -/
theorem test_witness_GridIndexIsRowMajor :
    0 < 4 ∧ 0 < 4 * 2 ∧ 7 < 4 * 2 ∧ (1 < 2 ∧ 3 < 4) ∧ (0 < 1 ∨ (0 = 1 ∧ 3 < 0)) := by decide

/-- Three regions laid end to end, and the last sample of CIN beside the first of PIN. -/
theorem test_witness_SampleAddressesAreDistinct :
    RegionsDisjoint ⟨0, 0x1000, 0x1030, 0x1033⟩ 16 1 16 ∧ 15 < 16 ∧ 2 < 3 ∧ 0 < 1 := by
  unfold RegionsDisjoint; decide

theorem test_witness_RegisterLanesAreLittleEndian : regLane 0x00000225 0 = 0x25 ∧ regLane 0x00000225 1 = 0x02 := by decide

end Sys2Proof.Tests
end

section
/-! SUPPORT. One 32-bit host register access as a step: which offset of the window holds which register, what a write stores
and what a read notes (spec/10_state.md R24 to R35). -/

namespace Sys2Proof.Machine

open Sys2Proof.Claims

/-! ### The register map -/

theorem regAt_eq_some_iff {off : Nat} {r : RegName} : regAt off = some r ↔ off = r.offset := by
  constructor
  · unfold regAt
    split <;> intro h <;> cases h <;> rfl
  · rintro rfl
    cases r <;> rfl

@[simp] theorem regAt_offset (r : RegName) : regAt r.offset = some r := regAt_eq_some_iff.2 rfl

/-- R34: from 0x24 on the window holds no register. -/
theorem regAt_eq_none_of_ge {off : Nat} (h : 0x24 ≤ off) : regAt off = none := by
  refine Option.eq_none_iff_forall_ne_some.2 fun r hr => ?_
  obtain rfl := regAt_eq_some_iff.1 hr
  cases r <;> simp [RegName.offset] at h

/-! ### Writes -/

@[simp] theorem State.writeOffset_offset (s : State) (r : RegName) (w : Word) :
    s.writeOffset r.offset w = s.writeReg r w := by
  simp [State.writeOffset]

theorem State.writeOffset_of_busy {s : State} (h : s.phase = .busy) (off : Nat) (w : Word) : s.writeOffset off w = s := by
  unfold State.writeOffset State.writeReg
  rw [h]
  split <;> rfl

theorem State.writeReg_carW_of_idle {s : State} (h : s.phase = .idle) (w : Word) :
    s.writeReg .carW w = { s with carW := w } := by
  simp [State.writeReg, h]

theorem State.writeReg_carH_of_idle {s : State} (h : s.phase = .idle) (w : Word) :
    s.writeReg .carH w = { s with carH := w } := by
  simp [State.writeReg, h]

theorem State.writeReg_payW_of_idle {s : State} (h : s.phase = .idle) (w : Word) :
    s.writeReg .payW w = { s with payW := w.setWidth 18 } := by
  simp [State.writeReg, h]

theorem State.writeReg_payH_of_idle {s : State} (h : s.phase = .idle) (w : Word) :
    s.writeReg .payH w = { s with payH := w.setWidth 18 } := by
  simp [State.writeReg, h]

/-- R24: the registers at 0x04 and from 0x18 on are those that the host cannot write. -/
theorem RegName.readOnly_of_offset {r : RegName} (h : r.offset = 0x04 ∨ 0x18 ≤ r.offset) :
    r = .status ∨ r = .hdrW ∨ r = .hdrH ∨ r = .hdrParams := by
  cases r <;> simp [RegName.offset] at h ⊢

/-- R26, R31 to R34: a read-only register and a reserved word ignore a write in both phases. -/
theorem State.writeOffset_of_readOnly (s : State) {off : Nat} (h : off = 0x04 ∨ 0x18 ≤ off) (w : Word) :
    s.writeOffset off w = s := by
  cases hr : regAt off with
  | none => simp [State.writeOffset, hr]
  | some r =>
    obtain rfl := regAt_eq_some_iff.1 hr
    rw [State.writeOffset_offset]
    obtain rfl | rfl | rfl | rfl := RegName.readOnly_of_offset h
    all_goals cases hp : s.phase <;> simp [State.writeReg, hp]

/-- R29, R30: truncation to 18 bits, said by the natural number. -/
theorem setWidth_18_eq_ofNat_mod (w : Word) : w.setWidth 18 = BitVec.ofNat 18 (w.toNat % 2 ^ 18) := by
  apply BitVec.eq_of_toNat_eq
  simp

/-! ### Reads -/

/-- R35: a read returns the register's word, but for HDR_* while BUSY. -/
theorem State.readOffset_offset {s : State} {r : RegName} (h : r.freeWhileBusy = false ∨ s.phase = .idle) :
    s.readOffset r.offset = s.regWord r := by
  have hfree : s.readIsFree r.offset = false := by
    rcases h with h | h <;> simp [State.readIsFree, h]
  simp [State.readOffset, hfree]

theorem State.readOffset_popAgenda_offset {s : State} {r : RegName} (h : r.freeWhileBusy = false ∨ s.phase = .idle) :
    s.popAgenda.readOffset r.offset = s.regWord r :=
  (State.readOffset_offset (s := s.popAgenda) h).trans (by cases r <;> rfl)

/-- R34: a reserved word reads 0. -/
theorem State.readOffset_reserved (s : State) {off : Nat} (h : 0x24 ≤ off) : s.readOffset off = 0 := by
  simp [State.readOffset, regAt_eq_none_of_ge h]

theorem State.toNat_regWord_payW (s : State) : (s.regWord .payW).toNat = s.payW.toNat :=
  BitVec.toNat_setWidth_of_le (by decide)

theorem State.toNat_regWord_payH (s : State) : (s.regWord .payH).toNat = s.payH.toNat :=
  BitVec.toNat_setWidth_of_le (by decide)

theorem State.toNat_regWord_hdrW (s : State) : (s.regWord .hdrW).toNat = s.hdrW.toNat :=
  BitVec.toNat_setWidth_of_le (by decide)

theorem State.toNat_regWord_hdrH (s : State) : (s.regWord .hdrH).toNat = s.hdrH.toNat :=
  BitVec.toNat_setWidth_of_le (by decide)

theorem State.toNat_regWord_hdrParams (s : State) : (s.regWord .hdrParams).toNat = s.hdrParams.toNat :=
  BitVec.toNat_setWidth_of_le (by decide)

/-- R55: a read leaves the block as it was. -/
theorem State.blockSame_readAndNote_popAgenda (s : State) (off : Nat) : BlockSame s (s.popAgenda.readAndNote off) := by
  simp [BlockSame]

/-! ### The access as a step -/

theorem accessRefusal_of_windowOffset {off : Nat} (h : WindowOffset off) : accessRefusal off 4 = none := by
  obtain ⟨halign, hlt⟩ := h
  simp [accessRefusal, halign, Nat.not_le.2 hlt]

theorem step_of_hostNext {s : State} {op : HostOp} (h : HostNext s op) : step s = hostStep op s.popAgenda := by
  obtain ⟨rest, ha⟩ := h
  simp [step, stepAgenda, ha]

theorem step_write {s : State} {off : Nat} {w : Word} (h : HostNext s (.wr off 4 w)) (ho : WindowOffset off) :
    step s = .next (s.popAgenda.writeOffset off w) := by
  simp [step_of_hostNext h, hostStep, accessRefusal_of_windowOffset ho]

theorem step_read {s : State} {off : Nat} (h : HostNext s (.rd off 4)) (ho : WindowOffset off) :
    step s = .next (s.popAgenda.readAndNote off) := by
  simp [step_of_hostNext h, hostStep, accessRefusal_of_windowOffset ho]

/-- A write to a register is one step, in either phase. -/
theorem step_write_reg {s : State} {r : RegName} {w : Word} (h : HostNext s (.wr r.offset 4 w)) :
    step s = .next (s.popAgenda.writeReg r w) := by
  have ho : WindowOffset r.offset := by cases r <;> simp [WindowOffset, RegName.offset]
  rw [step_write h ho, State.writeOffset_offset]

theorem step_of_reset {s : State} {rest : List Event} (h : s.agenda = .reset :: rest) :
    step s = .next s.popAgenda.resetBlock := by
  simp [step, stepAgenda, h]

end Sys2Proof.Machine
end

section
/-! SUPPORT. What a step does to CMD, STATUS, HDR_* and the phase: the engine's turn ends a command, a CMD write while IDLE is
accepted, a reset clears them, and nothing else touches them (R23, R24, R80, R146). -/

namespace Sys2Proof.Machine

open Sys2Proof.Safety Sys2Proof.Claims

/-- The registers that no host write but an accepted CMD write changes, and the phase. -/
structure ControlSame (s t : State) : Prop where
  cmd : t.cmd = s.cmd
  status : t.status = s.status
  hdr : HdrSame s t
  phase : t.phase = s.phase

/-! ### The host's operations -/

/-- A register write is an accepted command or leaves the control registers as they were. -/
theorem State.writeOffset_accepts_or_keeps (s : State) (off : Nat) (w : Word) :
    (off = 0x00 ∧ s.phase = .idle ∧ s.writeOffset off w = s.acceptCommand w) ∨ ControlSame s (s.writeOffset off w) := by
  have keep : ControlSame s s := ⟨rfl, rfl, ⟨rfl, rfl, rfl⟩, rfl⟩
  cases hr : regAt off with
  | none => right; simpa [State.writeOffset, hr] using keep
  | some r =>
    obtain rfl := regAt_eq_some_iff.1 hr
    rw [State.writeOffset_offset]
    rcases s.writeReg_cases r w with ⟨-, e⟩ | ⟨hp, rfl, e⟩ | ⟨-, -, e⟩ | ⟨-, -, e⟩ | ⟨-, -, e⟩ | ⟨-, -, e⟩ | ⟨-, -, e⟩
    · rw [e]; exact .inr keep
    · exact .inl ⟨rfl, hp, e⟩
    all_goals rw [e]; exact .inr ⟨rfl, rfl, ⟨rfl, rfl, rfl⟩, rfl⟩

/-- A host operation is an accepted CMD write or leaves the control registers as they were. -/
theorem hostStep_accepts_or_keeps {op : HostOp} {s t : State} (h : hostStep op s = .next t) :
    (∃ w, op = .wr 0x00 4 w ∧ s.phase = .idle ∧ t = s.acceptCommand w) ∨ ControlSame s t := by
  rcases hostStep_cases h with ⟨off, w, rfl, -, rfl⟩ | ⟨off, -, -, rfl⟩ | ⟨b, i, px, -, -, rfl⟩ | ⟨b, i, -, -, rfl⟩ |
    ⟨i, -, -, rfl⟩ | ⟨-, rfl⟩
  · rcases s.writeOffset_accepts_or_keeps off w with ⟨rfl, hp, e⟩ | hk
    · exact .inl ⟨w, rfl, hp, e⟩
    · exact .inr hk
  all_goals exact .inr ⟨by simp, by simp, by simp [HdrSame], by simp⟩

/-- What one step does to the control registers. -/
theorem step_control_cases {s t : State} (h : step s = .next t) :
    (EngineNext s ∧ s.phase = .busy ∧ Ended s.popAgenda t ∧ engineStep s.popAgenda = .next t) ∨
    (∃ w, HostNext s (.wr 0x00 4 w) ∧ s.phase = .idle ∧ t = s.popAgenda.acceptCommand w) ∨
    ControlSame s t ∨
    (∃ rest, s.agenda = .reset :: rest) ∧ t = s.popAgenda.resetBlock := by
  rcases step_cases h with hengine | ⟨-, -, rfl⟩ | ⟨op, rest, ha, hop⟩ | ⟨rest, ha, rfl⟩
  · exact .inl hengine
  · exact .inr (.inr (.inl ⟨rfl, rfl, ⟨rfl, rfl, rfl⟩, rfl⟩))
  · rcases hostStep_accepts_or_keeps hop with ⟨w, rfl, hp, rfl⟩ | ⟨hcmd, hstatus, hhdr, hphase⟩
    · exact .inr (.inl ⟨w, ⟨rest, ha⟩, hp, rfl⟩)
    · exact .inr (.inr (.inl ⟨hcmd, hstatus, hhdr, hphase⟩))
  · exact .inr (.inr (.inr ⟨⟨rest, ha⟩, rfl⟩))

/-! ### Completion -/

/-- R83, R130: the words STATUS can hold when a command has ended. -/
def completionWords : List Word := statusComplete :: errorDetails.map (fun e => statusError e.1 e.2)

theorem completionWords_subset_statusWords : completionWords ⊆ statusWords :=
  fun _ h => List.mem_cons_of_mem _ (List.mem_cons_of_mem _ h)

theorem completionWords_not_busy : ∀ w ∈ completionWords, statusBusy w = false ∧ w ≠ 0 := by
  show ∀ w ∈ statusWords.drop 2, _
  simp [statusWords_eq, statusBusy]

theorem statusError_mem_completionWords {e : ErrorKind} {d : Nat} (h : (e, d) ∈ errorDetails) :
    statusError e d ∈ completionWords :=
  List.mem_cons_of_mem _ (List.mem_map.2 ⟨(e, d), h, rfl⟩)

theorem Ended.status_mem {s t : State} (h : Ended s t) : t.status ∈ completionWords := by
  cases h with
  | failed he => exact statusError_mem_completionWords he
  | headerFailed he => exact statusError_mem_completionWords he
  | wrote | headerRead | extracted => exact List.mem_cons_self

theorem Ended.phase {s t : State} (h : Ended s t) : t.phase = .idle := by
  cases h <;> rfl

/-! ### The canonical form of the buffers -/

theorem Ended.buffersWf {s t : State} (h : Ended s t) (hs : s.BuffersWf) : t.BuffersWf := by
  cases h with
  | failed | headerFailed | headerRead => exact hs
  | wrote n f => exact hs.writeOut n f
  | extracted n f => exact State.BuffersWf.writeOut (s := s.loadHeader) hs n f

theorem State.BuffersWf.writeOffset {s : State} (hs : s.BuffersWf) (off : Nat) (w : Word) :
    (s.writeOffset off w).BuffersWf := by
  cases hr : regAt off with
  | none => simpa [State.writeOffset, hr] using hs
  | some r =>
    obtain rfl := regAt_eq_some_iff.1 hr
    rw [State.writeOffset_offset]
    rcases s.writeReg_cases r w with ⟨-, e⟩ | ⟨-, -, e⟩ | ⟨-, -, e⟩ | ⟨-, -, e⟩ | ⟨-, -, e⟩ | ⟨-, -, e⟩ | ⟨-, -, e⟩
    all_goals rw [e]; exact hs

theorem hostStep_buffersWf {op : HostOp} {s t : State} (h : hostStep op s = .next t) (hs : s.BuffersWf) :
    t.BuffersWf := by
  rcases hostStep_cases h with ⟨off, w, -, -, rfl⟩ | ⟨off, -, -, rfl⟩ | ⟨b, i, px, -, -, rfl⟩ | ⟨b, i, -, -, rfl⟩ |
    ⟨i, -, -, rfl⟩ | ⟨-, rfl⟩
  · exact hs.writeOffset off w
  · exact hs
  · exact hs.putPixel b i px
  · exact hs
  · exact State.BuffersWf.putPixel (s := s.note (.pixel .out i (s.pixel .out i))) hs .cin i _
  · exact hs

theorem step_buffersWf {s t : State} (h : step s = .next t) (hs : s.BuffersWf) : t.BuffersWf := by
  have hpop : s.popAgenda.BuffersWf := hs
  rcases step_cases h with ⟨-, -, he, -⟩ | ⟨-, -, rfl⟩ | ⟨op, -, -, hop⟩ | ⟨-, -, rfl⟩
  · exact he.buffersWf hpop
  · exact hpop
  · exact hostStep_buffersWf hop hpop
  · exact hpop.resetBlock

/-! ### HDR_* -/

theorem fieldOp_eq (w : Word) : fieldOp w = w.toNat % 16 := by
  simp [fieldOp]

theorem fieldRes_eq (w : Word) : fieldRes w = w.toNat / 4096 := by
  have hw := w.isLt
  simp only [fieldRes, BitVec.extractLsb'_toNat, Nat.shiftRight_eq_div_pow]
  omega

/-- R70, R74, R84: a word that decodes shows its command's opcode and no reserved bit. -/
theorem fields_of_decode {w : Word} {i : Instr} (h : decode w = .command i) :
    w.toNat % 16 = i.op ∧ w.toNat / 4096 = 0 := by
  rw [← fieldOp_eq, ← fieldRes_eq]
  unfold decode at h
  split at h
  · cases h
  · next j hj =>
    split at h
    · next hres =>
      cases h
      refine ⟨?_, hres⟩
      unfold commandOf at hj
      split at hj <;> cases hj <;> assumption
    · cases h

/-- A command that is no header read keeps HDR_* (R95, R108, R112, R120). -/
theorem exec_hdrSame (i : Instr) (s : State) :
    (i.op = 2 ∨ i.op = 6) ∨ ∃ t, exec i s = .next t ∧ HdrSame s t := by
  cases i with
  | hdrRead => exact .inl (.inl rfl)
  | extract => exact .inl (.inr rfl)
  | hdrWrite bps sf =>
    right
    rcases execHdrWrite_cases bps sf s with ⟨-, e⟩ | ⟨-, -, e⟩ | ⟨-, -, e⟩
    all_goals exact ⟨_, e, rfl, rfl, rfl⟩
  | payEncode bps sf =>
    right
    rcases execPayEncode_cases bps sf s with ⟨-, e⟩ | ⟨-, e⟩
    all_goals exact ⟨_, e, rfl, rfl, rfl⟩
  | payDecode bps sf =>
    right
    rcases execPayDecode_cases bps sf s with ⟨-, e⟩ | ⟨-, -, e⟩ | ⟨-, -, e⟩
    all_goals exact ⟨_, e, rfl, rfl, rfl⟩
  | embed bps sf =>
    right
    rcases execEmbed_cases bps sf s with ⟨-, e⟩ | ⟨-, -, e⟩ | ⟨-, -, e⟩
    all_goals exact ⟨_, e, rfl, rfl, rfl⟩

/-- The engine's step keeps HDR_* unless CMD holds the word of HDR_READ or EXTRACT. -/
theorem engineStep_hdrSame_or_headerRead {s t : State} (h : engineStep s = .next t) :
    HdrSame s t ∨ (s.cmd.toNat % 16 = 2 ∨ s.cmd.toNat % 16 = 6) ∧ s.cmd.toNat / 4096 = 0 := by
  unfold engineStep at h
  split at h
  · next i hi =>
    obtain ⟨hop, hres⟩ := fields_of_decode hi
    rcases exec_hdrSame i s with hread | ⟨u, hu, hsame⟩
    · exact .inr ⟨by rwa [hop], hres⟩
    · cases hu.symm.trans h
      exact .inl hsame
  · cases h; exact .inl ⟨rfl, rfl, rfl⟩
  · cases h; exact .inl ⟨rfl, rfl, rfl⟩

end Sys2Proof.Machine

/-! ### The invariant -/

namespace Sys2Proof.Safety

open Sys2Proof.Machine

theorem Inv.buffersWf {s : State} (h : Inv s) : s.BuffersWf := ⟨h.cinWf, h.pinWf, h.outWf⟩

theorem inv_reset : Inv State.reset := by
  obtain ⟨hcin, hpin, hout⟩ := State.buffersWf_reset
  exact ⟨List.mem_cons_self, by decide, fun _ => ⟨rfl, rfl, rfl, rfl⟩, hcin, hpin, hout⟩

theorem inv_resetBlock {s : State} (hs : s.BuffersWf) : Inv s.resetBlock := by
  obtain ⟨hcin, hpin, hout⟩ := hs.resetBlock
  exact ⟨List.mem_cons_self, by simp [statusBusy], fun _ => ⟨rfl, rfl, rfl, rfl⟩, hcin, hpin, hout⟩

theorem inv_acceptCommand {s : State} (hs : s.BuffersWf) (w : Word) : Inv (s.acceptCommand w) := by
  obtain ⟨hcin, hpin, hout⟩ := hs
  exact ⟨List.mem_cons_of_mem _ List.mem_cons_self, iff_of_true rfl (by simp [statusBusy, statusAccepted]),
    fun h0 => absurd h0 (by simp [statusAccepted]), hcin, hpin, hout⟩

/-- A command that has ended leaves the invariant. -/
theorem inv_of_ended {s t : State} (h : Ended s t) (hs : s.BuffersWf) : Inv t := by
  obtain ⟨hbusy, hne⟩ := completionWords_not_busy _ h.status_mem
  obtain ⟨hcin, hpin, hout⟩ := h.buffersWf hs
  exact ⟨completionWords_subset_statusWords h.status_mem, by simp [h.phase, hbusy], fun h0 => absurd h0 hne,
    hcin, hpin, hout⟩

/-- The invariant speaks of the control registers and the canonical form only. -/
theorem Inv.of_controlSame {s t : State} (hi : Inv s) (h : ControlSame s t) (ht : t.BuffersWf) : Inv t := by
  obtain ⟨hcmd, hstatus, ⟨hw, hh, hparams⟩, hphase⟩ := h
  obtain ⟨hcin, hpin, hout⟩ := ht
  refine ⟨?_, ?_, ?_, hcin, hpin, hout⟩
  · rw [hstatus]; exact hi.statusLegal
  · rw [hphase, hstatus]; exact hi.phaseMirrored
  · rw [hstatus, hcmd, hw, hh, hparams]; exact hi.freshAfterReset

theorem step_inv {s t : State} (hi : Inv s) (h : step s = .next t) : Inv t := by
  have hpop : s.popAgenda.BuffersWf := hi.buffersWf
  rcases step_control_cases h with ⟨-, -, he, -⟩ | ⟨w, -, -, rfl⟩ | hsame | ⟨-, rfl⟩
  · exact inv_of_ended he hpop
  · exact inv_acceptCommand hpop w
  · exact hi.of_controlSame hsame (step_buffersWf h hi.buffersWf)
  · exact inv_resetBlock hpop

/-- R26, R131, R132, R162: the fields of the eighteen legal words. -/
theorem statusWords_fields : ∀ w ∈ statusWords,
    ¬ (w.getLsbD 0 = true ∧ w.getLsbD 1 = true) ∧
    w.toNat / 4 % 4 = 0 ∧ w.toNat / 128 % 2 = 0 ∧ w.toNat / 4096 = 0 ∧
    w.toNat / 16 % 8 ≤ 4 ∧ (w.toNat / 16 % 8 = 0 → w.toNat / 256 % 16 = 0) ∧
    (w.getLsbD 0 = false → w.getLsbD 1 = false → w = 0) :=
  forall_statusWords.2 (by simp)

end Sys2Proof.Safety
end

section
/-! The obligations of spec/10_state.md. -/

namespace Sys2Proof.StateProofs

open Sys2Proof.Machine Sys2Proof.Safety Sys2Proof.Claims

/-- Settles O50: each way a step can go (`step_control_cases`) keeps the invariant. -/
theorem stepKeepsInvariant : Obligations.StepKeepsInvariant := by
  unfold Obligations.StepKeepsInvariant
  intro s t hi h
  exact step_inv hi h

/-- Settles O8: of all that a step can do, only the engine's turn and a reset reach HDR_*, and the engine's turn only with
the word of HDR_READ or EXTRACT in CMD. -/
theorem hdrRegistersChangeOnlyOnHeaderRead : Obligations.HdrRegistersChangeOnlyOnHeaderRead := by
  unfold Obligations.HdrRegistersChangeOnlyOnHeaderRead
  intro s t h hchanged
  rcases step_control_cases h with ⟨hturn, hbusy, -, hstep⟩ | ⟨w, -, -, rfl⟩ | hsame | ⟨hreset, -⟩
  · rcases engineStep_hdrSame_or_headerRead hstep with hsame | ⟨hop, hres⟩
    · exact absurd hsame hchanged
    · exact .inl ⟨hturn, hbusy, hop, hres⟩
  · exact absurd ⟨rfl, rfl, rfl⟩ hchanged
  · exact absurd hsame.hdr hchanged
  · exact .inr hreset

/-- Settles O37: while BUSY every write to the window is dropped. -/
theorem writesWhileBusyAreIgnored : Obligations.WritesWhileBusyAreIgnored := by
  unfold Obligations.WritesWhileBusyAreIgnored
  intro s off w hnext hoff hbusy
  rw [step_write hnext hoff, State.writeOffset_of_busy (s := s.popAgenda) hbusy]
  rfl

/-- Settles O38: each dimension register takes the word, PAY_W and PAY_H its low 18 bits. -/
theorem dimensionWritesWhileIdle : Obligations.DimensionWritesWhileIdle := by
  unfold Obligations.DimensionWritesWhileIdle
  intro s w hidle
  have hpop : s.popAgenda.phase = .idle := hidle
  refine ⟨fun h => ?carW, fun h => ?carH, fun h => ?payW, fun h => ?payH⟩
  case carW => rw [step_write_reg (r := .carW) h, State.writeReg_carW_of_idle hpop]; rfl
  case carH => rw [step_write_reg (r := .carH) h, State.writeReg_carH_of_idle hpop]; rfl
  case payW => rw [step_write_reg (r := .payW) h, State.writeReg_payW_of_idle hpop, setWidth_18_eq_ofNat_mod]; rfl
  case payH => rw [step_write_reg (r := .payH) h, State.writeReg_payH_of_idle hpop, setWidth_18_eq_ofNat_mod]; rfl

/-- Settles O39: the read-only registers and the reserved words drop a write in either phase. -/
theorem readOnlyAndReservedIgnoreWrites : Obligations.ReadOnlyAndReservedIgnoreWrites := by
  unfold Obligations.ReadOnlyAndReservedIgnoreWrites
  intro s off w hnext hoff hreadOnly
  rw [step_write hnext hoff, State.writeOffset_of_readOnly _ hreadOnly]
  rfl

/-- Settles O40: while IDLE the host notes what `regWord` holds at each register's offset. -/
theorem readsWhileIdleReturnTheRegister : Obligations.ReadsWhileIdleReturnTheRegister := by
  unfold Obligations.ReadsWhileIdleReturnTheRegister
  intro s off hnext hoff hidle
  have hread : ∀ r : RegName, s.popAgenda.readOffset r.offset = s.regWord r :=
    fun r => State.readOffset_popAgenda_offset (.inr hidle)
  refine ⟨_, s.popAgenda.readOffset off, step_read hnext hoff, rfl, s.blockSame_readAndNote_popAgenda off, rfl,
    ?_, ?_, ?_, ?_, ?_, ?_, ?_, ?_, ?_, State.readOffset_reserved _⟩
  all_goals rintro rfl
  · exact hread .cmd
  · exact hread .status
  · exact hread .carW
  · exact hread .carH
  · exact (congrArg BitVec.toNat (hread .payW)).trans s.toNat_regWord_payW
  · exact (congrArg BitVec.toNat (hread .payH)).trans s.toNat_regWord_payH
  · exact (congrArg BitVec.toNat (hread .hdrW)).trans s.toNat_regWord_hdrW
  · exact (congrArg BitVec.toNat (hread .hdrH)).trans s.toNat_regWord_hdrH
  · exact (congrArg BitVec.toNat (hread .hdrParams)).trans s.toNat_regWord_hdrParams

/-- Settles O41: while BUSY the same holds of the six registers that stay readable. -/
theorem readsWhileBusy : Obligations.ReadsWhileBusy := by
  unfold Obligations.ReadsWhileBusy
  intro s off hnext hoff _
  have hread : ∀ r : RegName, r.freeWhileBusy = false → s.popAgenda.readOffset r.offset = s.regWord r :=
    fun r hr => State.readOffset_popAgenda_offset (.inl hr)
  refine ⟨_, s.popAgenda.readOffset off, step_read hnext hoff, rfl, s.blockSame_readAndNote_popAgenda off, rfl,
    ?_, ?_, ?_, ?_, ?_, ?_, State.readOffset_reserved _⟩
  all_goals rintro rfl
  · exact hread .cmd rfl
  · exact hread .status rfl
  · exact hread .carW rfl
  · exact hread .carH rfl
  · exact (congrArg BitVec.toNat (hread .payW rfl)).trans s.toNat_regWord_payW
  · exact (congrArg BitVec.toNat (hread .payH rfl)).trans s.toNat_regWord_payH

/-- Settles O54: a step that is no acceptance, no engine's turn while BUSY and no reset keeps STATUS. -/
theorem statusWrittenOnlyAtAcceptanceAndCompletion : Obligations.StatusWrittenOnlyAtAcceptanceAndCompletion := by
  unfold Obligations.StatusWrittenOnlyAtAcceptanceAndCompletion
  intro s t h hchanged
  rcases step_control_cases h with ⟨hturn, hbusy, -, -⟩ | ⟨w, hnext, hidle, -⟩ | hsame | ⟨hreset, -⟩
  · exact .inr (.inl ⟨hbusy, hturn⟩)
  · exact .inl ⟨hidle, w, hnext⟩
  · exact absurd hsame.status hchanged
  · exact .inr (.inr hreset)

/-- Settles O47, field by field of the reset state. -/
theorem resetState : Obligations.ResetState := by
  unfold Obligations.ResetState
  exact ⟨rfl, rfl, rfl, rfl, rfl, rfl, rfl, rfl, rfl, rfl⟩

/-- Settles O48: the step is `resetBlock`, which takes no register and no phase from the state before. -/
theorem resetAtAnyTime : Obligations.ResetAtAnyTime := by
  unfold Obligations.ResetAtAnyTime
  intro s rest h
  refine ⟨_, step_of_reset h, ?_⟩
  simp [h]

/-- Settles O49. -/
theorem invariantAtReset : Obligations.InvariantAtReset := inv_reset

/-- Settles O51: the invariant puts STATUS among the eighteen legal words. -/
theorem statusFieldsAreLegal : Obligations.StatusFieldsAreLegal := by
  unfold Obligations.StatusFieldsAreLegal
  intro s hi
  exact statusWords_fields s.status hi.statusLegal

end Sys2Proof.StateProofs
end

section
/-! SUPPORT. The whole block over a read and over a host operation while BUSY (spec/20_memory.md R55, R58), and the refusals
of a host that breaks a duty (R52; spec/70_reset_and_hazards.md R171). -/

namespace Sys2Proof.Claims

open Sys2Proof.Machine

theorem BlockSame.trans {s t u : State} (hst : BlockSame s t) (htu : BlockSame t u) : BlockSame s u := by
  unfold BlockSame at *
  simp_all

theorem BlockSame.phase {s t : State} (h : BlockSame s t) : t.phase = s.phase := by
  obtain ⟨-, -, -, -, -, -, -, -, -, hphase, -⟩ := h
  exact hphase

/-- Every register's word is part of the block. -/
theorem BlockSame.regWord {s t : State} (h : BlockSame s t) (r : RegName) : t.regWord r = s.regWord r := by
  obtain ⟨hcmd, hstatus, hcarW, hcarH, hpayW, hpayH, hhdrW, hhdrH, hparams, -⟩ := h
  cases r <;> simp [State.regWord, *]

end Sys2Proof.Claims

namespace Sys2Proof.Machine

open Sys2Proof.Claims

/-! ### Reads -/

/-- R35: only HDR_* are unspecified, and only while BUSY. -/
theorem State.readIsFree_eq_false {s : State} {off : Nat} (h : s.phase = .idle ∨ off < 0x18 ∨ 0x24 ≤ off) :
    s.readIsFree off = false := by
  cases hr : regAt off with
  | none => simp [State.readIsFree, hr]
  | some r =>
    obtain rfl := regAt_eq_some_iff.1 hr
    rcases h with hidle | hoff
    · simp [State.readIsFree, hidle]
    · have hheld : r.freeWhileBusy = false := by cases r <;> simp [RegName.offset, RegName.freeWhileBusy] at hoff ⊢
      simp [State.readIsFree, hheld]

/-- R55: what a specified read returns is determined by the block alone. -/
theorem State.readOffset_of_blockSame {s t : State} {off : Nat} (hst : BlockSame s t)
    (h : s.phase = .idle ∨ off < 0x18 ∨ 0x24 ≤ off) : t.readOffset off = s.readOffset off := by
  have hs : s.readIsFree off = false := State.readIsFree_eq_false h
  have ht : t.readIsFree off = false := State.readIsFree_eq_false (by rwa [hst.phase])
  unfold State.readOffset
  cases regAt off with
  | none => rfl
  | some r => simp [hs, ht, hst.regWord r]

/-- R55: a specified read is a step that notes what the block holds and leaves the block as it was. -/
theorem step_read_of_specified {s : State} {off : Nat} (hnext : HostNext s (.rd off 4)) (hoff : WindowOffset off)
    (h : s.phase = .idle ∨ off < 0x18 ∨ 0x24 ≤ off) :
    ∃ t, step s = .next t ∧ t.agenda = s.agenda.tail ∧ t.notes = .reg off (s.readOffset off) :: s.notes ∧
      BlockSame s t := by
  have hvalue : s.popAgenda.readOffset off = s.readOffset off :=
    State.readOffset_of_blockSame (by simp [BlockSame]) h
  exact ⟨_, step_read hnext hoff, rfl, by simp [hvalue], s.blockSame_readAndNote_popAgenda off⟩

/-! ### Host operations while BUSY -/

/-- R55: the poll of `wait` reads STATUS and leaves the block as it was. -/
theorem State.blockSame_poll (s : State) : BlockSame s s.poll := by
  simp [BlockSame]

/-- R35, R171: while BUSY no host operation that has a step changes the block. -/
theorem hostStep_blockSame_of_busy {op : HostOp} {s t : State} (h : hostStep op s.popAgenda = .next t)
    (hbusy : s.phase = .busy) : BlockSame s t := by
  have notIdle : s.popAgenda.phase ≠ .idle := by simp [hbusy]
  rcases hostStep_cases h with ⟨off, w, -, -, rfl⟩ | ⟨off, -, -, rfl⟩ | ⟨b, i, px, -, hidle, -⟩ | ⟨b, i, -, hidle, -⟩ |
    ⟨i, -, hidle, -⟩ | ⟨-, rfl⟩
  · rw [State.writeOffset_of_busy (s := s.popAgenda) hbusy]
    simp [BlockSame]
  · exact s.blockSame_readAndNote_popAgenda off
  · exact absurd hidle notIdle
  · exact absurd hidle notIdle
  · exact absurd hidle notIdle
  · exact s.popAgenda.blockSame_poll

/-! ### Refusals -/

theorem accessRefusal_of_size_ne {size : Nat} (h : size ≠ 4) (off : Nat) :
    accessRefusal off size = some .accessNotOneWord := by
  simp [accessRefusal, h]

theorem accessRefusal_of_misaligned {off : Nat} (h : off % 4 ≠ 0) : accessRefusal off 4 = some .accessMisaligned := by
  simp [accessRefusal, h]

theorem accessRefusal_of_outside {off : Nat} (halign : off % 4 = 0) (h : 64 ≤ off) :
    accessRefusal off 4 = some .accessOutsideWindow := by
  simp [accessRefusal, halign, h]

/-- A register access that has a refusal is refused by it, a write and a read alike. -/
theorem step_of_accessRefusal {s : State} {off size : Nat} {w : Word} {r : Refusal}
    (h : HostNext s (.wr off size w) ∨ HostNext s (.rd off size)) (hr : accessRefusal off size = some r) :
    step s = .refused r := by
  rcases h with h | h
  all_goals simp [step_of_hostNext h, hostStep, hr]

/-- R171: while BUSY each of the three buffer operations is refused. -/
theorem step_buffer_of_busy {s : State} {b : BufId} {i : Nat} {px : Pixel} (hbusy : s.phase = .busy)
    (h : HostNext s (.put b i px) ∨ HostNext s (.get b i) ∨ HostNext s (.copyOut i)) :
    step s = .refused .bufferAccessWhileBusy := by
  rcases h with h | h | h
  all_goals simp [step_of_hostNext h, hostStep, hbusy]

end Sys2Proof.Machine
end

section
/-! SUPPORT. Grid indices, sample addresses and register lanes (spec/20_memory.md R41, R46 to R48). -/

namespace Sys2Proof.Machine

open Sys2Proof.Safety

/-! ### The grid -/

theorem gridIndex_div {w col : Nat} (row : Nat) (h : col < w) : gridIndex w row col / w = row := by
  rw [gridIndex, Nat.add_comm, Nat.add_mul_div_right _ _ (by omega), Nat.div_eq_of_lt h, Nat.zero_add]

theorem gridIndex_mod {w col : Nat} (row : Nat) (h : col < w) : gridIndex w row col % w = col := by
  rw [gridIndex, Nat.mul_add_mod', Nat.mod_eq_of_lt h]

theorem gridIndex_div_mod (w i : Nat) : gridIndex w (i / w) (i % w) = i := Nat.div_add_mod' i w

/-- A pixel comes before the first pixel of every later row. -/
theorem gridIndex_lt_of_row_lt {w row col row' : Nat} (hcol : col < w) (hrow : row < row') :
    gridIndex w row col < row' * w :=
  calc row * w + col < row * w + w := by omega
    _ = (row + 1) * w := (Nat.succ_mul row w).symm
    _ ≤ row' * w := Nat.mul_le_mul_right w hrow

/-- Row-major order: by row, then from left to right. -/
theorem gridIndex_lt_iff {w row col row' col' : Nat} (hcol : col < w) (hcol' : col' < w) :
    gridIndex w row col < gridIndex w row' col' ↔ row < row' ∨ (row = row' ∧ col < col') := by
  rcases Nat.lt_trichotomy row row' with hlt | rfl | hgt
  · have := gridIndex_lt_of_row_lt hcol hlt
    simp only [gridIndex] at *
    omega
  · simp [gridIndex]
  · have := gridIndex_lt_of_row_lt hcol' hgt
    simp only [gridIndex] at *
    omega

/-! ### Sample addresses -/

/-- The pixels that a placement backs, buffer by buffer (the extents of `RegionsDisjoint`). -/
def backedPixels (nCin nPin nOut : Nat) : BufId → Nat
  | .cin => nCin
  | .pin => nPin
  | .out => nOut

/-- R47: a sample lies in the region of its buffer. -/
theorem sampleAddress_mem_region (pl : Config.Placement) (b : BufId) {p j n : Nat} (hj : j < 3) (hp : p < n) :
    bufferBase pl b ≤ sampleAddress pl b p j ∧ sampleAddress pl b p j < bufferBase pl b + 3 * n :=
  ⟨Nat.le_add_right _ _, Nat.add_lt_add_left ((sampleKey_lt hj).2 hp) _⟩

/-- R46: of two different buffers, one region ends before the other begins. -/
theorem regions_disjoint_of_ne {pl : Config.Placement} {nCin nPin nOut : Nat} (h : RegionsDisjoint pl nCin nPin nOut)
    {b b' : BufId} (hb : b ≠ b') :
    bufferBase pl b + 3 * backedPixels nCin nPin nOut b ≤ bufferBase pl b' ∨
      bufferBase pl b' + 3 * backedPixels nCin nPin nOut b' ≤ bufferBase pl b := by
  obtain ⟨hCinPin, hCinOut, hPinOut⟩ := h
  cases b <;> cases b'
  case cin.pin => exact hCinPin
  case cin.out => exact hCinOut
  case pin.out => exact hPinOut
  case pin.cin => exact hCinPin.symm
  case out.cin => exact hCinOut.symm
  case out.pin => exact hPinOut.symm
  all_goals exact absurd rfl hb

/-! ### Register lanes -/

theorem getLsbD_regLane (w : Word) (k : Nat) {c : Nat} (hc : c < 8) :
    (regLane w k).getLsbD c = w.getLsbD (8 * k + c) := by
  simp [regLane, hc]

end Sys2Proof.Machine
end

section
/-! The obligations of spec/20_memory.md. -/

namespace Sys2Proof.MemoryProofs

open Sys2Proof.Machine Sys2Proof.Safety Sys2Proof.Claims

/-- Settles O42: the first read keeps the block, and the block alone says what the second one returns. -/
theorem registerReadsAreIdempotent : Obligations.RegisterReadsAreIdempotent := by
  unfold Obligations.RegisterReadsAreIdempotent
  intro s off rest ha hoff hspecified
  obtain ⟨t, hst, hagenda, hnotes, hsame⟩ := step_read_of_specified ⟨_, ha⟩ hoff hspecified
  obtain ⟨u, htu, -, hnotes', hsame'⟩ :=
    step_read_of_specified (s := t) ⟨rest, by rw [hagenda, ha]; rfl⟩ hoff (by rwa [hsame.phase])
  refine ⟨t, u, s.readOffset off, hst, htu, ?_, hsame.trans hsame'⟩
  rw [hnotes', hnotes, State.readOffset_of_blockSame hsame hspecified]

/-- Settles O43: a register access is refused as `accessRefusal` says, a buffer access by the phase. -/
theorem brokenDutiesAreRefused : Obligations.BrokenDutiesAreRefused := by
  unfold Obligations.BrokenDutiesAreRefused
  intro s off size i w b px
  refine ⟨fun hnext => ⟨fun hsize => ?size, ?misaligned, ?outside⟩, step_buffer_of_busy⟩
  case size => exact step_of_accessRefusal hnext (accessRefusal_of_size_ne hsize off)
  case misaligned =>
    rintro rfl halign
    exact step_of_accessRefusal hnext (accessRefusal_of_misaligned halign)
  case outside =>
    rintro rfl halign hout
    exact step_of_accessRefusal hnext (accessRefusal_of_outside halign hout)

/-- Settles O55: the engine's step and a reset end in IDLE, so a step that stays BUSY is the host's. -/
theorem snapshotCannotChange : Obligations.SnapshotCannotChange := by
  unfold Obligations.SnapshotCannotChange
  intro s t h hs ht
  rcases step_cases h with ⟨-, -, hended, -⟩ | ⟨-, hidle, -⟩ | ⟨op, rest, -, hop⟩ | ⟨rest, -, rfl⟩
  · simp [hended.phase] at ht
  · simp [hs] at hidle
  · exact hostStep_blockSame_of_busy hop hs
  · simp at ht

/-- Settles O58: two samples of different buffers lie in disjoint regions, and two of one buffer have different keys. -/
theorem sampleAddressesAreDistinct : Obligations.SampleAddressesAreDistinct := by
  unfold Obligations.SampleAddressesAreDistinct
  intro pl nCin nPin nOut p j p' j' b b' hdisjoint hj hj' hcin hpin hout hcin' hpin' hout' heq
  have hp : p < backedPixels nCin nPin nOut b := by cases b; exacts [hcin rfl, hpin rfl, hout rfl]
  have hp' : p' < backedPixels nCin nPin nOut b' := by cases b'; exacts [hcin' rfl, hpin' rfl, hout' rfl]
  have hb : b = b' := by
    by_contra hne
    have hmem := sampleAddress_mem_region pl b hj hp
    have hmem' := sampleAddress_mem_region pl b' hj' hp'
    have := regions_disjoint_of_ne hdisjoint hne
    omega
  subst hb
  exact ⟨rfl, sampleKey_inj hj hj' (Nat.add_left_cancel heq)⟩

/-- Settles O57: `gridIndex` is the inverse of row and column, and strictly monotone in row-major order. -/
theorem gridIndexIsRowMajor : Obligations.GridIndexIsRowMajor := by
  unfold Obligations.GridIndexIsRowMajor
  intro w h hw
  refine ⟨fun i => ⟨rfl, rfl⟩, fun i hi => ⟨Nat.div_lt_of_lt_mul hi, Nat.mod_lt i hw⟩, fun row col hrow hcol => ?_,
    gridIndex_div_mod w, fun row col row' col' => gridIndex_lt_iff⟩
  exact ⟨(gridIndex_lt_of_row_lt hcol hrow).trans_eq (Nat.mul_comm h w), gridIndex_div row hcol, gridIndex_mod row hcol⟩

/-- Settles O59: the shift by `8k` brings bit `8k + c` to bit `c`. -/
theorem registerLanesAreLittleEndian : Obligations.RegisterLanesAreLittleEndian := by
  unfold Obligations.RegisterLanesAreLittleEndian
  intro w k c _ hc
  exact getLsbD_regLane w k hc

end Sys2Proof.MemoryProofs
end

section
/-! SUPPORT. The command word (spec/30_encoding.md R70 to R75, R79, R84): its fields and its encoding said by natural numbers,
and exactly when the decoder and the assembler answer what. -/

namespace Sys2Proof

open Sys2Proof.Machine

/-! ### The fields -/

theorem fieldBps_eq (w : Word) : fieldBps w = w.toNat / 16 % 16 := by
  simp [fieldBps, Nat.shiftRight_eq_div_pow]

theorem fieldSf_eq (w : Word) : fieldSf w = w.toNat / 256 % 16 := by
  simp [fieldSf, Nat.shiftRight_eq_div_pow]

/-- R74: the six opcodes. -/
theorem Instr.op_range (i : Instr) : 1 ≤ i.op ∧ i.op ≤ 6 := by
  cases i <;> simp [Instr.op]

theorem Instr.wf_iff (i : Instr) : i.wf = true ↔ i.bps ≤ 15 ∧ i.sf ≤ 15 := by
  simp [Instr.wf, Instr.bpsFits, Instr.sfFits]

/-- R79: HDR_READ and EXTRACT are written without operands. -/
theorem Instr.spelled_iff (i : Instr) : i.spelled = true ↔ (i.op = 2 ∨ i.op = 6 → i.bps = 0 ∧ i.sf = 0) := by
  cases i <;> simp [Instr.spelled, Instr.op, Instr.bps, Instr.sf]

/-! ### The encoder -/

/-- R70: fields that do not overlap add up. -/
theorem encode_eq_ofNat {i : Instr} (hbps : i.bps ≤ 15) :
    encode i = BitVec.ofNat 32 (i.op + 16 * i.bps + 256 * i.sf) := by
  have hop := i.op_range
  have hlow : i.op ||| (i.bps <<< 4) = i.bps <<< 4 + i.op :=
    (Nat.or_comm ..).trans (Nat.shiftLeft_add_eq_or_of_lt (by omega) _).symm
  have hlt : i.bps <<< 4 + i.op < 2 ^ 8 := by rw [Nat.shiftLeft_eq]; omega
  have hall : (i.bps <<< 4 + i.op) ||| (i.sf <<< 8) = i.sf <<< 8 + (i.bps <<< 4 + i.op) :=
    (Nat.or_comm ..).trans (Nat.shiftLeft_add_eq_or_of_lt hlt _).symm
  rw [encode, hlow, hall, Nat.shiftLeft_eq, Nat.shiftLeft_eq]
  congr 1
  omega

theorem toNat_encode {i : Instr} (h : i.wf = true) : (encode i).toNat = i.op + 16 * i.bps + 256 * i.sf := by
  obtain ⟨hbps, hsf⟩ := i.wf_iff.1 h
  have hop := i.op_range
  rw [encode_eq_ofNat hbps, BitVec.toNat_ofNat]
  omega

/-- R79: what the assembler encodes, and as what. -/
theorem assemble_eq_some_iff {i : Instr} {w : Word} :
    assemble i = some w ↔ (i.bps ≤ 15 ∧ i.sf ≤ 15) ∧ (i.op = 2 ∨ i.op = 6 → i.bps = 0 ∧ i.sf = 0) ∧ encode i = w := by
  rw [← i.wf_iff, ← i.spelled_iff]
  simp [assemble, and_assoc]

/-! ### The decoder -/

/-- R74: the opcode map answers the command with this opcode and these operands. -/
theorem commandOf_eq_some_iff {op bps sf : Nat} {i : Instr} :
    commandOf op bps sf = some i ↔ i.op = op ∧ i.bps = bps ∧ i.sf = sf := by
  constructor
  · intro h
    unfold commandOf at h
    split at h <;> cases h <;> exact ⟨rfl, rfl, rfl⟩
  · rintro ⟨rfl, rfl, rfl⟩
    cases i <;> rfl

/-- R75: the reserved opcodes. -/
theorem commandOf_eq_none {op : Nat} (h : op = 0 ∨ 7 ≤ op) (bps sf : Nat) : commandOf op bps sf = none := by
  refine Option.eq_none_iff_forall_ne_some.2 fun i hi => ?_
  obtain ⟨rfl, -⟩ := commandOf_eq_some_iff.1 hi
  have := i.op_range
  omega

theorem exists_commandOf_eq_some {op : Nat} (h : 1 ≤ op ∧ op ≤ 6) (bps sf : Nat) : ∃ i, commandOf op bps sf = some i := by
  obtain rfl | rfl | rfl | rfl | rfl | rfl : op = 1 ∨ op = 2 ∨ op = 3 ∨ op = 4 ∨ op = 5 ∨ op = 6 := by omega
  all_goals exact ⟨_, rfl⟩

/-- R84: a word decodes to the command that its four fields spell. -/
theorem decode_eq_command_iff {w : Word} {i : Instr} :
    decode w = .command i ↔
      i.op = w.toNat % 16 ∧ i.bps = w.toNat / 16 % 16 ∧ i.sf = w.toNat / 256 % 16 ∧ w.toNat / 4096 = 0 := by
  have hfields : commandOf (fieldOp w) (fieldBps w) (fieldSf w) = some i ↔
      i.op = w.toNat % 16 ∧ i.bps = w.toNat / 16 % 16 ∧ i.sf = w.toNat / 256 % 16 := by
    rw [commandOf_eq_some_iff, fieldOp_eq, fieldBps_eq, fieldSf_eq]
  rw [← and_assoc (a := i.bps = _), ← and_assoc, ← hfields, ← fieldRes_eq]
  unfold decode
  cases commandOf (fieldOp w) (fieldBps w) (fieldSf w) with
  | none => simp
  | some j => by_cases hres : fieldRes w = 0 <;> simp [hres]

/-- R75: a reserved opcode is rejected, whatever the other bits are. -/
theorem decode_of_reservedOpcode {w : Word} (h : w.toNat % 16 = 0 ∨ 7 ≤ w.toNat % 16) :
    decode w = .rejected .reservedOpcode := by
  rw [← fieldOp_eq] at h
  simp [decode, commandOf_eq_none h]

/-- R73: a command's opcode with a reserved bit set. -/
theorem decode_of_reservedBits {w : Word} (hop : 1 ≤ w.toNat % 16 ∧ w.toNat % 16 ≤ 6) (hres : w.toNat / 4096 ≠ 0) :
    decode w = .rejected .reservedBits := by
  rw [← fieldOp_eq] at hop
  rw [← fieldRes_eq] at hres
  obtain ⟨i, hi⟩ := exists_commandOf_eq_some hop (fieldBps w) (fieldSf w)
  simp [decode, hi, hres]

theorem decode_encode {i : Instr} (h : i.wf = true) : decode (encode i) = .command i := by
  obtain ⟨hbps, hsf⟩ := i.wf_iff.1 h
  have hop := i.op_range
  rw [decode_eq_command_iff, toNat_encode h]
  omega

theorem encode_of_decode {w : Word} {i : Instr} (h : decode w = .command i) : i.wf = true ∧ encode i = w := by
  obtain ⟨hop, hbps, hsf, hres⟩ := decode_eq_command_iff.1 h
  have hwf : i.wf = true := i.wf_iff.2 (by omega)
  refine ⟨hwf, BitVec.eq_of_toNat_eq ?_⟩
  rw [toNat_encode hwf]
  omega

end Sys2Proof
end

section
/-! SUPPORT. The engine's turn as a step, what every command leaves unchanged (spec/20_memory.md R42, R43), and the steps of a
host that leads to it: an accepted CMD write (spec/30_encoding.md R80), the poll of `wait` (R86), and any host operation while
BUSY (R82, R180). -/

namespace Sys2Proof.Machine

open Sys2Proof.Safety Sys2Proof.Claims

/-! ### The engine's turn -/

theorem step_of_engineNext {s : State} (h : EngineNext s) (hbusy : s.phase = .busy) : step s = engineStep s.popAgenda := by
  have hturn : step s = engineTurn s.popAgenda := by
    rcases h with h | ⟨rest, h⟩
    · simp [step, stepAgenda, h, State.popAgenda_of_nil h]
    · simp [step, stepAgenda, h]
  simp [hturn, engineTurn, hbusy]

theorem engineStep_of_command {s : State} {i : Instr} (h : decode s.cmd = .command i) : engineStep s = exec i s := by
  simp [engineStep, h]

theorem step_of_decode {s : State} {i : Instr} (h : EngineNext s) (hbusy : s.phase = .busy)
    (hi : decode s.cmd = .command i) : step s = exec i s.popAgenda := by
  rw [step_of_engineNext h hbusy, engineStep_of_command (s := s.popAgenda) hi]

/-- R82: the engine's turn ends the accepted command. -/
theorem step_ended {s : State} (h : EngineNext s) (hbusy : s.phase = .busy) :
    ∃ t, step s = .next t ∧ Ended s.popAgenda t := by
  rw [step_of_engineNext h hbusy]
  exact engineStep_ended s.popAgenda

/-- R42, R43: in whatever shape a command ends, it leaves its inputs as they were. -/
theorem Ended.commandFrame {s t : State} (h : Ended s t) : CommandFrame s t := by
  cases h <;> simp [CommandFrame]

/-- R83, R130: a command that has ended leaves DONE set. -/
theorem completionWords_done : ∀ w ∈ completionWords, w.getLsbD 1 = true := by
  show ∀ w ∈ statusWords.drop 2, _
  simp [statusWords_eq]

/-- R80: the only legal STATUS word with BUSY set is the one of an acceptance. -/
theorem eq_statusAccepted_of_busy : ∀ w ∈ statusWords, statusBusy w = true → w = statusAccepted :=
  forall_statusWords.2 (by simp [statusBusy, statusAccepted])

/-! ### Host operations that lead to the engine's turn -/

theorem State.writeReg_cmd_of_idle {s : State} (h : s.phase = .idle) (w : Word) : s.writeReg .cmd w = s.acceptCommand w := by
  simp [State.writeReg, h]

theorem step_wait {s : State} (h : HostNext s .wait) : step s = .next s.popAgenda.poll := by
  rw [step_of_hostNext h]
  rfl

/-- R26: a poll notes STATUS. -/
theorem State.notes_poll_popAgenda (s : State) : s.popAgenda.poll.notes = .reg 0x04 s.status :: s.notes := by
  have hread : s.popAgenda.readOffset 0x04 = s.status := State.readOffset_popAgenda_offset (r := .status) (.inl rfl)
  simp [hread]

theorem State.agenda_writeOffset (s : State) (off : Nat) (w : Word) : (s.writeOffset off w).agenda = s.agenda := by
  cases hr : regAt off with
  | none => simp [State.writeOffset, hr]
  | some r =>
    obtain rfl := regAt_eq_some_iff.1 hr
    rw [State.writeOffset_offset]
    rcases s.writeReg_cases r w with ⟨-, e⟩ | ⟨-, -, e⟩ | ⟨-, -, e⟩ | ⟨-, -, e⟩ | ⟨-, -, e⟩ | ⟨-, -, e⟩ | ⟨-, -, e⟩
    all_goals simp [e]

/-- Only a poll of `wait` that saw BUSY puts anything on the agenda: the engine's turn and the next poll. -/
theorem hostStep_agenda {op : HostOp} {s t : State} (h : hostStep op s = .next t) :
    t.agenda = s.agenda ∨ t.agenda = .engine :: .host .wait :: s.agenda := by
  rcases hostStep_cases h with ⟨off, w, -, -, rfl⟩ | ⟨off, -, -, rfl⟩ | ⟨b, i, px, -, -, rfl⟩ | ⟨b, i, -, -, rfl⟩ |
    ⟨i, -, -, rfl⟩ | ⟨-, rfl⟩
  · exact .inl (s.agenda_writeOffset off w)
  · exact .inl rfl
  · exact .inl (s.putPixel_agenda b i px)
  · exact .inl rfl
  · exact .inl (State.putPixel_agenda ..)
  · rw [State.poll_agenda]
    split
    · exact .inr rfl
    · exact .inl rfl

/-- A host that keeps its duty has a next step: there are no faults. -/
theorem step_next_of_dutyKept {s : State} (h : DutyKept s) : ∃ t, step s = .next t := by
  cases hs : step s with
  | next t => exact ⟨t, rfl⟩
  | fault r => exact nomatch r
  | refused r => exact absurd hs (h r)

/-- R82, R180: by induction on the length of the agenda. A step of a BUSY block completes or abandons the command, or takes a
host operation off the agenda, or is a poll, after which the engine moves. -/
theorem exists_run_idle (n : Nat) {s : State} (hlen : s.agenda.length = n) (hbusy : s.phase = .busy)
    (hduties : DutiesKept (n + 1) s) : ∃ k t, k ≤ n + 1 ∧ Host.Core.run core k s = .next t ∧ State.phase t = .idle := by
  induction n generalizing s with
  | zero =>
    obtain ⟨t, hst, hended⟩ := step_ended (.inl (List.length_eq_zero_iff.1 hlen)) hbusy
    exact ⟨1, t, le_rfl, core_run_next 0 hst, hended.phase⟩
  | succ n ih =>
    obtain ⟨hduty, hrest⟩ := hduties
    obtain ⟨t, hst⟩ := step_next_of_dutyKept hduty
    rcases step_cases hst with ⟨-, -, hended, -⟩ | ⟨-, hidle, -⟩ | ⟨op, rest, ha, hop⟩ | ⟨-, -, rfl⟩
    · exact ⟨1, t, by omega, core_run_next 0 hst, hended.phase⟩
    · simp [hbusy] at hidle
    · have htbusy : t.phase = .busy := (hostStep_blockSame_of_busy hop hbusy).phase.trans hbusy
      rcases hostStep_agenda hop with htail | hpoll
      · have htlen : t.agenda.length = n := by simp [htail, hlen]
        obtain ⟨k, u, hk, hrun, hidle⟩ := ih htlen htbusy (hrest t hst)
        exact ⟨k + 1, u, by omega, (core_run_next k hst).trans hrun, hidle⟩
      · obtain ⟨u, htu, hended⟩ := step_ended (.inr ⟨_, hpoll⟩) htbusy
        exact ⟨2, u, by omega, (core_run_next 1 hst).trans (core_run_next 0 htu), hended.phase⟩
    · exact ⟨1, _, by omega, core_run_next 0 hst, rfl⟩

end Sys2Proof.Machine
end

section
/-! SUPPORT. The host's buffer operations while IDLE as steps, and a run of the steps that `copy` expands into
(spec/30_encoding.md R86; spec/70_reset_and_hazards.md R175). -/

namespace Sys2Proof.Claims

open Sys2Proof.Machine

theorem RegsSame.trans {s t u : State} (hst : RegsSame s t) (htu : RegsSame t u) : RegsSame s u := by
  unfold RegsSame at *
  simp_all

theorem RegsSame.phase {s t : State} (h : RegsSame s t) : t.phase = s.phase := by
  obtain ⟨-, -, -, -, -, -, -, -, -, hphase, -⟩ := h
  exact hphase

end Sys2Proof.Claims

namespace Sys2Proof.Machine

open Sys2Proof.Claims

/-! ### One operation -/

theorem step_put {s : State} {b : BufId} {i : Nat} {px : Pixel} (h : HostNext s (.put b i px)) (hidle : s.phase = .idle) :
    step s = .next (s.popAgenda.putPixel b i px) := by
  simp [step_of_hostNext h, hostStep, hidle]

theorem step_get {s : State} {b : BufId} {i : Nat} (h : HostNext s (.get b i)) (hidle : s.phase = .idle) :
    step s = .next (s.popAgenda.note (.pixel b i (s.pixel b i))) := by
  simp [step_of_hostNext h, hostStep, hidle, State.pixel]

theorem step_copyOut {s : State} {i : Nat} (h : HostNext s (.copyOut i)) (hidle : s.phase = .idle) :
    step s = .next ((s.popAgenda.note (.pixel .out i (s.pixel .out i))).putPixel .cin i (s.pixel .out i)) := by
  simp [step_of_hostNext h, hostStep, hidle, State.pixel]

theorem State.channel_pixel (s : State) (b : BufId) (i : Nat) {j : Nat} (hj : j < 3) :
    (s.pixel b i).channel j = s.sample b i j := by
  obtain rfl | rfl | rfl : j = 0 ∨ j = 1 ∨ j = 2 := by omega
  all_goals rfl

/-! ### A list of pixels -/

/-- R86: `t` is `s` once the listed pixels of OUT have been copied to CIN. -/
structure OutCopied (l : List Nat) (s t : State) : Prop where
  regs : RegsSame s t
  cin : ∀ i j, j < 3 → t.sample .cin i j = if i ∈ l then s.sample .out i j else s.sample .cin i j
  pin : ∀ i j, j < 3 → t.sample .pin i j = s.sample .pin i j
  out : ∀ i j, j < 3 → t.sample .out i j = s.sample .out i j

theorem OutCopied.nil (s : State) : OutCopied [] s s :=
  ⟨by simp [RegsSame], by simp, fun _ _ _ => rfl, fun _ _ _ => rfl⟩

theorem OutCopied.cons {p : Nat} {l : List Nat} {s t u : State} (hst : OutCopied [p] s t) (htu : OutCopied l t u) :
    OutCopied (p :: l) s u where
  regs := hst.regs.trans htu.regs
  cin i j hj := by
    rw [htu.cin i j hj, hst.cin i j hj, hst.out i j hj]
    by_cases hl : i ∈ l <;> simp [hl]
  pin i j hj := (htu.pin i j hj).trans (hst.pin i j hj)
  out i j hj := (htu.out i j hj).trans (hst.out i j hj)

/-- One step of `copy`. -/
theorem exists_step_outCopied {s : State} {p : Nat} (h : HostNext s (.copyOut p)) (hidle : s.phase = .idle) :
    ∃ t, step s = .next t ∧ t.agenda = s.agenda.tail ∧ OutCopied [p] s t := by
  refine ⟨_, step_copyOut h hidle, by simp, by simp [RegsSame], fun i j hj => ?_, fun i j hj => ?_, fun i j hj => ?_⟩
  all_goals rw [State.sample_putPixel _ _ _ _ _ _ hj]
  · by_cases hi : i = p
    · subst hi; simp [State.channel_pixel _ _ _ hj]
    · simp [hi]
  · simp
  · simp

/-- The steps of `copy`, by induction on the list of its pixels. -/
theorem exists_run_outCopied (l : List Nat) {rest : List Event} {s : State} (hidle : s.phase = .idle)
    (ha : s.agenda = l.map (fun i => .host (.copyOut i)) ++ rest) :
    ∃ t : State, Host.Core.run core l.length s = .next t ∧ t.agenda = rest ∧ OutCopied l s t := by
  induction l generalizing s with
  | nil => exact ⟨s, rfl, ha, OutCopied.nil s⟩
  | cons p l ih =>
    obtain ⟨t, hst, htAgenda, hcopied⟩ := exists_step_outCopied ⟨_, ha⟩ hidle
    obtain ⟨u, hrun, huAgenda, hrest⟩ := ih (hcopied.regs.phase.trans hidle) (by rw [htAgenda, ha]; rfl)
    exact ⟨u, (core_run_next _ hst).trans hrun, huAgenda, hcopied.cons hrest⟩

@[simp] theorem length_indices (a b : Nat) : (indices a b).length = b + 1 - a := by
  simp [indices]

@[simp] theorem mem_indices {a b i : Nat} : i ∈ indices a b ↔ a ≤ i ∧ i ≤ b := by
  simp only [indices, List.mem_map, List.mem_range]
  constructor
  · rintro ⟨k, hk, rfl⟩; omega
  · rintro ⟨ha, hb⟩; exact ⟨i - a, by omega, by omega⟩

theorem hostProgram_copy (first last : Nat) :
    hostProgram [.copy first last] = (indices first last).map (fun i => .host (.copyOut i)) := by
  simp [hostProgram, HostStmt.expand]

end Sys2Proof.Machine
end

section
/-! SUPPORT. The header slots bit by bit (spec/30_encoding.md R76, R77): what hdrOverlay writes into them and hdrExtract reads
out of them. -/

namespace Sys2Proof.Machine

open Sys2Proof.Claims

/-! ### The slot map -/

theorem hdrSlot_width {p : Nat} (hp : p < 3) (j : Nat) (w h : Dim) (b s : Nat) :
    hdrSlot p j w h b s = some ((w >>> (p * 6 + j * 2)).setWidth 2) :=
  if_pos (by omega)

theorem hdrSlot_height {p : Nat} (hp : p < 3) (j : Nat) (w h : Dim) (b s : Nat) :
    hdrSlot (3 + p) j w h b s = some ((h >>> (p * 6 + j * 2)).setWidth 2) := by
  rw [hdrSlot, if_neg (by omega), if_pos (by omega), Nat.add_sub_cancel_left]

theorem hdrSlot_bps {j : Nat} (hj : j < 2) (w h : Dim) (b s : Nat) :
    hdrSlot 6 j w h b s = some (BitVec.ofNat 2 (b >>> (j * 2))) := by
  simp [hdrSlot, hj]

theorem hdrSlot_sf {j : Nat} (hj : j < 2) (w h : Dim) (b s : Nat) :
    hdrSlot 7 j w h b s = some (BitVec.ofNat 2 (s >>> (j * 2))) := by
  simp [hdrSlot, hj]

theorem hdrSlot_eq_none {p j : Nat} (h : ¬ (p < 6 ∨ (p = 6 ∨ p = 7) ∧ j < 2)) (w h' : Dim) (b s : Nat) :
    hdrSlot p j w h' b s = none := by
  rw [hdrSlot, if_neg (by omega), if_neg (by omega), if_neg (by omega), if_neg (by omega)]

/-! ### Writing a header -/

/-- R77: a slot's chunk takes the low 2 bits of the sample. -/
theorem getLsbD_overlaySample_some_of_lt (x : Byte) (chunk : BitVec 2) {c : Nat} (hc : c < 2) :
    (overlaySample x (some chunk)).getLsbD c = chunk.getLsbD c := by
  obtain rfl | rfl : c = 0 ∨ c = 1 := by omega
  all_goals simp [overlaySample]

/-- R77: above the low 2 bits the sample stays. -/
theorem getLsbD_overlaySample_of_ge (x : Byte) (slot : Option (BitVec 2)) {c : Nat} (hc : 2 ≤ c) :
    (overlaySample x slot).getLsbD c = x.getLsbD c := by
  cases slot with
  | none => rfl
  | some chunk =>
    by_cases h8 : c < 8
    · have hmask : (0xFC : Byte).getLsbD c = true := by interval_cases c <;> rfl
      rw [overlaySample, BitVec.getLsbD_or, BitVec.getLsbD_and, hmask]
      simp [BitVec.getLsbD_of_ge chunk c hc]
    · simp [BitVec.getLsbD_of_ge _ c (Nat.le_of_not_lt h8)]

theorem State.getLsbD_hdrOverlay_of_not_slotBit (st : State) (w h : Dim) (b s : Nat) {i j c : Nat}
    (hslot : ¬ SlotBit i j c) : (st.hdrOverlay w h b s i j).getLsbD c = (st.sample .cin i j).getLsbD c := by
  by_cases hc : c < 2
  · rw [State.hdrOverlay, hdrSlot_eq_none (fun hij => hslot ⟨hc, hij⟩)]
    rfl
  · exact getLsbD_overlaySample_of_ge _ _ (Nat.le_of_not_lt hc)

/-- R91: where OUT holds what hdrOverlay writes, its slots hold the header. -/
theorem headerHeld_of_hdrOverlay {st t : State} {w h : Dim} {b s : Nat} (hb : b < 2 ^ 4) (hs : s < 2 ^ 4)
    (hout : ∀ i j, i < 8 → j < 3 → t.sample .out i j = st.hdrOverlay w h b s i j) :
    HeaderHeld t .out w.toNat h.toNat b s := by
  refine ⟨w.isLt, h.isLt, hb, hs, fun p j c hp hj hc => ?_, fun p j c hp hj hc => ?_, fun j c hj hc => ?_,
    fun j c hj hc => ?_⟩
  · rw [hout _ _ (by omega) hj, State.hdrOverlay, hdrSlot_width hp, getLsbD_overlaySample_some_of_lt _ _ hc]
    simp [hc, BitVec.testBit_toNat, Nat.mul_comm]
  · rw [hout _ _ (by omega) hj, State.hdrOverlay, hdrSlot_height hp, getLsbD_overlaySample_some_of_lt _ _ hc]
    simp [hc, BitVec.testBit_toNat, Nat.mul_comm]
  · rw [hout _ _ (by omega) (by omega), State.hdrOverlay, hdrSlot_bps hj, getLsbD_overlaySample_some_of_lt _ _ hc]
    simp [BitVec.getLsbD_ofNat, hc, Nat.mul_comm, -BitVec.getLsbD_eq_getElem]
  · rw [hout _ _ (by omega) (by omega), State.hdrOverlay, hdrSlot_sf hj, getLsbD_overlaySample_some_of_lt _ _ hc]
    simp [BitVec.getLsbD_ofNat, hc, Nat.mul_comm, -BitVec.getLsbD_eq_getElem]

/-! ### Reading a header -/

/-- A bit vector is the number that has its bits. -/
theorem toNat_eq_iff_testBit {n : Nat} (x : BitVec n) (m : Nat) :
    x.toNat = m ↔ m < 2 ^ n ∧ ∀ k < n, x.getLsbD k = m.testBit k := by
  constructor
  · rintro rfl
    exact ⟨x.isLt, fun k _ => (BitVec.testBit_toNat x).symm⟩
  · rintro ⟨hm, hbits⟩
    refine Nat.eq_of_testBit_eq fun k => ?_
    rw [BitVec.testBit_toNat]
    by_cases hk : k < n
    · exact hbits k hk
    · have hle : m < 2 ^ k := hm.trans_le (Nat.pow_le_pow_right (by decide) (Nat.le_of_not_lt hk))
      rw [BitVec.getLsbD_of_ge x k (Nat.le_of_not_lt hk), Nat.testBit_lt_two_pow hle]

/-- R92: bit `c` of channel `j` of the dimension's pixel `p` is bit `6p + 2j + c` of the dimension. -/
theorem State.getLsbD_hdrDim (st : State) (base : Nat) {p j c : Nat} (hp : p < 3) (hj : j < 3) (hc : c < 2) :
    (st.hdrDim base).getLsbD (6 * p + 2 * j + c) = (st.sample .cin (base + p) j).getLsbD c := by
  obtain rfl | rfl | rfl : p = 0 ∨ p = 1 ∨ p = 2 := by omega
  all_goals obtain rfl | rfl | rfl : j = 0 ∨ j = 1 ∨ j = 2 := by omega
  all_goals obtain rfl | rfl : c = 0 ∨ c = 1 := by omega
  all_goals simp [State.hdrDim, State.hdrChunk, List.range_succ]

/-- R92: bit `c` of channel `j` is bit `2j + c` of the parameter. -/
theorem State.getLsbD_hdrParam (st : State) (p : Nat) {j c : Nat} (hj : j < 2) (hc : c < 2) :
    (st.hdrParam p).getLsbD (2 * j + c) = (st.sample .cin p j).getLsbD c := by
  obtain rfl | rfl : j = 0 ∨ j = 1 := by omega
  all_goals obtain rfl | rfl : c = 0 ∨ c = 1 := by omega
  all_goals simp [State.hdrParam, State.hdrChunk]

theorem State.toNat_hdrDim_eq_iff (st : State) (base w : Nat) :
    (st.hdrDim base).toNat = w ↔ w < 2 ^ 18 ∧ ∀ p j c, p < 3 → j < 3 → c < 2 →
      (st.sample .cin (base + p) j).getLsbD c = w.testBit (6 * p + 2 * j + c) := by
  rw [toNat_eq_iff_testBit]
  refine and_congr_right fun _ => ⟨fun h p j c hp hj hc => ?_, fun h k hk => ?_⟩
  · rw [← st.getLsbD_hdrDim base hp hj hc]
    exact h _ (by omega)
  · obtain ⟨p, j, c, hp, hj, hc, rfl⟩ : ∃ p j c, p < 3 ∧ j < 3 ∧ c < 2 ∧ k = 6 * p + 2 * j + c :=
      ⟨k / 6, k % 6 / 2, k % 2, by omega, by omega, by omega, by omega⟩
    rw [st.getLsbD_hdrDim base hp hj hc]
    exact h p j c hp hj hc

theorem State.toNat_hdrParam_eq_iff (st : State) (p b : Nat) :
    (st.hdrParam p).toNat = b ↔ b < 2 ^ 4 ∧ ∀ j c, j < 2 → c < 2 →
      (st.sample .cin p j).getLsbD c = b.testBit (2 * j + c) := by
  rw [toNat_eq_iff_testBit]
  refine and_congr_right fun _ => ⟨fun h j c hj hc => ?_, fun h k hk => ?_⟩
  · rw [← st.getLsbD_hdrParam p hj hc]
    exact h _ (by omega)
  · obtain ⟨j, c, hj, hc, rfl⟩ : ∃ j c, j < 2 ∧ c < 2 ∧ k = 2 * j + c := ⟨k / 2, k % 2, by omega, by omega, by omega⟩
    rw [st.getLsbD_hdrParam p hj hc]
    exact h j c hj hc

/-- R92: hdrExtract reads the header that the slots of CIN hold. -/
theorem headerHeld_cin_iff {st : State} {w h b s : Nat} :
    HeaderHeld st .cin w h b s ↔ st.hdrExtract.w.toNat = w ∧ st.hdrExtract.h.toNat = h ∧
      st.hdrExtract.b.toNat = b ∧ st.hdrExtract.s.toNat = s := by
  simp only [State.hdrExtract, State.toNat_hdrDim_eq_iff, State.toNat_hdrParam_eq_iff, HeaderHeld, Nat.zero_add]
  tauto

end Sys2Proof.Machine
end

section
/-! SUPPORT. The payload chunk bit by bit (spec/42_payload_codec.md R105, R106), and what a command that writes OUT does as a
whole (spec/20_memory.md R44). -/

namespace Sys2Proof.Machine

open Sys2Proof.Claims

/-! ### One sample -/

theorem getLsbD_lowMask (n : Nat) {x : Nat} (hx : x < 8) : (BitVec.ofNat 8 (lowMask n)).getLsbD x = decide (x < n) := by
  rw [BitVec.getLsbD_ofNat, lowMask, Nat.one_shiftLeft, Nat.testBit_two_pow_sub_one]
  simp [hx]

theorem getLsbD_chunk (bpp : Nat) (v : Byte) (k : Nat) {x : Nat} (hx : x < 8) :
    (chunk bpp v k).getLsbD x = (v.getLsbD (8 - (k + 1) * bpp + x) && decide (x < bpp)) := by
  rw [chunk, BitVec.getLsbD_and, getLsbD_lowMask bpp hx, BitVec.getLsbD_ushiftRight]

theorem getLsbD_highMask (n : Nat) {x : Nat} (hx : x < 8) : ((0xFF : Byte) <<< n).getLsbD x = decide (n ≤ x) := by
  have hones : (0xFF : Byte) = BitVec.allOnes 8 := rfl
  rw [hones, BitVec.getLsbD_shiftLeft, BitVec.getLsbD_allOnes]
  by_cases hn : n ≤ x
  · simp [hx, hn, (Nat.sub_le x n).trans_lt hx]
  · simp [hn, Nat.lt_of_not_le hn]

/-- R106: the chunk below `bpp`, the carrier's own bits from `bpp` on. -/
theorem spread_encChannel {bpp : Nat} (h : bpp ≤ 8) (k : Nat) (c v : Byte) :
    Spread bpp k c v (encChannel bpp c v k) := by
  have hbit : ∀ x < 8, (encChannel bpp c v k).getLsbD x =
      (c.getLsbD x && decide (bpp ≤ x) || v.getLsbD (8 - (k + 1) * bpp + x) && decide (x < bpp)) := by
    intro x hx
    rw [encChannel, BitVec.getLsbD_or, BitVec.getLsbD_and, getLsbD_highMask bpp hx, getLsbD_chunk bpp v k hx]
  refine ⟨fun x hx => ?chunk, fun x hx => ?carrier⟩
  case chunk => simp [hbit x (by omega), hx]
  case carrier =>
    by_cases h8 : x < 8
    · simp [hbit x h8, hx]
    · simp [BitVec.getLsbD_of_ge _ x (Nat.le_of_not_lt h8)]

/-- R108: inside the payload a carrier sample takes its chunk. -/
theorem State.spread_spreadSample (st : State) {bps sf : Nat} (hlegal : LegalPair bps sf) {i : Nat} (j : Nat)
    (h : (i - 8) / sf < st.payW.toNat * st.payH.toNat) :
    Spread (bps / sf) ((i - 8) % sf) (st.sample .cin i j) (st.sample .pin ((i - 8) / sf) j) (st.spreadSample bps sf i j) := by
  obtain ⟨-, hbps, -⟩ := hlegal
  rw [State.spreadSample, if_pos (show runOf sf i < st.payCount from h)]
  exact spread_encChannel ((Nat.div_le_self bps sf).trans hbps) _ _ _

/-- R109: past the payload a carrier sample is copied. -/
theorem State.spreadSample_of_exhausted (st : State) (bps : Nat) {sf i : Nat} (j : Nat)
    (h : st.payW.toNat * st.payH.toNat ≤ (i - 8) / sf) : st.spreadSample bps sf i j = st.sample .cin i j :=
  if_neg (Nat.not_lt.2 h)

/-! ### Commands that write OUT -/

/-- R44, R83: `t` is `s` after a command that has written `f` to OUT[0..n-1] and has not touched HDR_*. -/
structure WroteOut (s t : State) (n : Nat) (f : Nat → Nat → Byte) : Prop where
  succeeded : Succeeded t
  sample : ∀ i j, i < n → j < 3 → t.sample .out i j = f i j
  beyond : OutBeyond s t n
  frame : CommandFrame s t
  hdr : HdrSame s t

theorem wroteOut_complete (s : State) (n : Nat) (f : Nat → Nat → Byte) : WroteOut s (s.writeOut n f).complete n f where
  succeeded := ⟨rfl, rfl⟩
  sample i j hi hj := by rw [State.sample_complete, State.sample_out_writeOut _ _ _ _ hj, if_pos hi]
  beyond i j hj hi := by rw [State.sample_complete, State.sample_out_writeOut _ _ _ _ hj, if_neg (Nat.not_lt.2 hi)]
  frame := (Ended.wrote n f).commandFrame
  hdr := ⟨rfl, rfl, rfl⟩

theorem checkParams_of_legal {bps sf : Nat} (h : LegalPair bps sf) : checkParams bps sf = 0 := checkParams_eq_zero.2 h

/-- R95. -/
theorem exec_hdrWrite_of_legal {bps sf : Nat} {s : State} (hlegal : LegalPair bps sf)
    (hcap : 8 ≤ s.carW.toNat * s.carH.toNat) :
    ∃ t, exec (.hdrWrite bps sf) s = .next t ∧ WroteOut s t (s.carW.toNat * s.carH.toNat) (fun i j =>
      if i < 8 then s.hdrOverlay s.payW s.payH bps sf i j else s.sample .cin i j) := by
  rcases execHdrWrite_cases bps sf s with ⟨hbad, -⟩ | ⟨-, hsmall, -⟩ | ⟨-, -, h⟩
  · exact absurd (checkParams_of_legal hlegal) hbad
  · exact absurd hcap (Nat.not_le.2 hsmall)
  · exact ⟨_, h, wroteOut_complete ..⟩

/-- R120. -/
theorem exec_embed_of_fits {bps sf : Nat} {s : State} (hlegal : LegalPair bps sf)
    (hcap : 8 + s.payW.toNat * s.payH.toNat * sf ≤ s.carW.toNat * s.carH.toNat) :
    ∃ t, exec (.embed bps sf) s = .next t ∧ WroteOut s t (s.carW.toNat * s.carH.toNat) (fun i j =>
      if i < 8 then s.hdrOverlay s.payW s.payH bps sf i j else s.spreadSample bps sf i j) := by
  rcases execEmbed_cases bps sf s with ⟨hbad, -⟩ | ⟨-, hsmall, -⟩ | ⟨-, -, h⟩
  · exact absurd (checkParams_of_legal hlegal) hbad
  · exact absurd hcap (Nat.not_le.2 hsmall)
  · exact ⟨_, h, wroteOut_complete ..⟩

/-- R91, R120: a command that overlays pixels 0..7 leaves the header in the slots of OUT. -/
theorem WroteOut.headerHeld {s t : State} {n bps sf : Nat} {w h : Dim} {rest : Nat → Nat → Byte}
    (hw : WroteOut s t n (fun i j => if i < 8 then s.hdrOverlay w h bps sf i j else rest i j))
    (hlegal : LegalPair bps sf) (hn : 8 ≤ n) : HeaderHeld t .out w.toNat h.toNat bps sf := by
  obtain ⟨-, hbps, -, hsf, -⟩ := hlegal
  refine headerHeld_of_hdrOverlay (st := s) (by omega) (by omega) fun i j hi hj => ?_
  rw [hw.sample i j (by omega) hj, if_pos hi]

end Sys2Proof.Machine
end

section
/-! The obligations of spec/30_encoding.md. -/

namespace Sys2Proof.EncodingProofs

open Sys2Proof.Machine Sys2Proof.Safety Sys2Proof.Claims

/-! ### Decoding and encoding -/

/-- Settles O1: the encoder adds the fields up, and the decoder takes the sum apart. -/
theorem decodeEncodeAgree : Obligations.DecodeEncodeAgree := by
  unfold Obligations.DecodeEncodeAgree
  intro i h
  exact decode_encode h

/-- Settles O2: the fields that the decoder reads make up the whole word. -/
theorem encodeDecodeAgree : Obligations.EncodeDecodeAgree := by
  unfold Obligations.EncodeDecodeAgree
  intro w i h
  exact encode_of_decode h

/-- Settles O3: on operands of 4 bits the encoder is the sum. -/
theorem assemblerEncodesFourBitOperands : Obligations.AssemblerEncodesFourBitOperands := by
  unfold Obligations.AssemblerEncodesFourBitOperands
  intro i w
  rw [assemble_eq_some_iff, and_assoc]
  refine and_congr_right fun hbps => ?_
  rw [encode_eq_ofNat hbps, eq_comm (a := w)]

/-- Settles O4: eight fixed words. -/
theorem writtenWordsDecode : Obligations.WrittenWordsDecode := by
  unfold Obligations.WrittenWordsDecode
  decide

/-- Settles O31: the two meanings drop the fields, and the assembler writes them only as 0. -/
theorem headerReadersIgnoreParameterFields : Obligations.HeaderReadersIgnoreParameterFields := by
  unfold Obligations.HeaderReadersIgnoreParameterFields
  intro x y x' y' s w
  refine ⟨rfl, rfl, fun h => ?hdrRead, fun h => ?extract⟩
  all_goals obtain ⟨-, hzero, rfl⟩ := assemble_eq_some_iff.1 h
  case hdrRead => obtain ⟨rfl, rfl⟩ : x = 0 ∧ y = 0 := hzero (.inl rfl); rfl
  case extract => obtain ⟨rfl, rfl⟩ : x = 0 ∧ y = 0 := hzero (.inr rfl); rfl

/-! ### The engine's step -/

/-- Settles O5. -/
theorem stepRunsDecodedCommand : Obligations.StepRunsDecodedCommand := by
  unfold Obligations.StepRunsDecodedCommand
  intro s i hnext hbusy hi
  exact step_of_decode hnext hbusy hi

/-- Settles O6: the engine's step on each of the decoder's three answers. -/
theorem stepFollowsDecodeOrder : Obligations.StepFollowsDecodeOrder := by
  unfold Obligations.StepFollowsDecodeOrder
  intro s hnext hbusy
  refine ⟨fun hop => ?reservedOpcode, fun hop hres => ?reservedBits, fun i hop hbps hsf hres => ?command⟩
  case reservedOpcode =>
    simp only [step_of_engineNext hnext hbusy, engineStep, State.popAgenda_cmd, decode_of_reservedOpcode hop]
    rfl
  case reservedBits =>
    simp only [step_of_engineNext hnext hbusy, engineStep, State.popAgenda_cmd, decode_of_reservedBits hop hres]
    rfl
  case command => exact step_of_decode hnext hbusy (decode_eq_command_iff.2 ⟨hop, hbps, hsf, hres⟩)

/-- Settles O7: the engine's turn ends the command in one of the shapes of `Ended`, and each has the frame. -/
theorem engineStepCompletes : Obligations.EngineStepCompletes := by
  unfold Obligations.EngineStepCompletes
  intro s hnext hbusy
  obtain ⟨t, hst, hended⟩ := step_ended hnext hbusy
  exact ⟨t, hst, hended.phase, (completionWords_not_busy _ hended.status_mem).1,
    completionWords_done _ hended.status_mem, hended.commandFrame⟩

/-- Settles O36. -/
theorem cmdWriteWhileIdleIsAccepted : Obligations.CmdWriteWhileIdleIsAccepted := by
  unfold Obligations.CmdWriteWhileIdleIsAccepted
  intro s w hnext hidle
  rw [step_write_reg (r := .cmd) hnext, State.writeReg_cmd_of_idle (s := s.popAgenda) hidle]
  rfl

/-! ### The header and the payload in OUT -/

/-- Settles O13: the slots take the header, and every other bit is the carrier's. -/
theorem hdrWriteRecordsHeader : Obligations.HdrWriteRecordsHeader := by
  unfold Obligations.HdrWriteRecordsHeader
  intro bps sf s hlegal hcap
  obtain ⟨t, hexec, hwrote⟩ := exec_hdrWrite_of_legal hlegal hcap
  refine ⟨t, hexec, hwrote.succeeded, hwrote.headerHeld hlegal hcap, fun i j c hi hj hslot => ?_, hwrote.beyond,
    hwrote.frame, hwrote.hdr⟩
  rw [hwrote.sample i j hi hj]
  split
  · exact s.getLsbD_hdrOverlay_of_not_slotBit _ _ _ _ hslot
  · rfl

/-- Settles O14. -/
theorem hdrExtractReadsSlots : Obligations.HdrExtractReadsSlots := by
  unfold Obligations.HdrExtractReadsSlots
  intro st w h b s
  exact headerHeld_cin_iff

/-- Settles O28: pixels 0..7 are those of HDR_WRITE, and from pixel 8 on each carrier sample is spread into or copied. -/
theorem embedWritesHeaderAndPayload : Obligations.EmbedWritesHeaderAndPayload := by
  unfold Obligations.EmbedWritesHeaderAndPayload
  intro bps sf s hlegal hcap
  obtain ⟨t, hexec, hwrote⟩ := exec_embed_of_fits hlegal hcap
  have hcap8 : 8 ≤ s.carW.toNat * s.carH.toNat := (Nat.le_add_right ..).trans hcap
  refine ⟨t, hexec, hwrote.succeeded, hwrote.headerHeld hlegal hcap8, fun i j c hi hj hslot => ?header,
    fun i j h8 hi hj => ?payload, hwrote.beyond, hwrote.frame, hwrote.hdr⟩
  case header =>
    rw [hwrote.sample i j (by omega) hj, if_pos hi]
    exact s.getLsbD_hdrOverlay_of_not_slotBit _ _ _ _ hslot
  case payload =>
    rw [hwrote.sample i j hi hj, if_neg (Nat.not_lt.2 h8)]
    exact ⟨s.spread_spreadSample hlegal j, s.spreadSample_of_exhausted bps j⟩

/-! ### The host's buffer statements -/

/-- Settles O44. -/
theorem putAndGetOnePixel : Obligations.PutAndGetOnePixel := by
  unfold Obligations.PutAndGetOnePixel
  intro s b p px hidle
  refine ⟨fun hnext => ⟨_, step_put hnext hidle, ?regs, ?agenda, ?c0, ?c1, ?c2, fun c i j hj hne => ?other⟩,
    fun hnext => ⟨_, step_get hnext hidle, by simp [BlockSame], rfl, rfl⟩⟩
  case regs => simp [RegsSame]
  case agenda => simp
  case other =>
    rw [State.sample_putPixel _ _ _ _ _ _ hj, if_neg (fun h => hne.elim (absurd h.1) (absurd h.2)),
      State.sample_popAgenda]
  all_goals rw [State.sample_putPixel _ _ _ _ _ _ (by decide), if_pos ⟨rfl, rfl⟩]; rfl

/-- Settles O45: the statement expands into one step for each index of its range. -/
theorem copyStatementCopies : Obligations.CopyStatementCopies := by
  unfold Obligations.CopyStatementCopies
  intro first last rest s hidle ha
  rw [hostProgram_copy] at ha
  obtain ⟨t, hrun, htAgenda, hcopied⟩ := exists_run_outCopied (indices first last) hidle ha
  rw [length_indices] at hrun
  refine ⟨t, hrun, htAgenda, hcopied.regs, fun i j hj hfirst hlast => ?inside, fun i j hj hout => ?outside,
    fun i j hj => ⟨hcopied.pin i j hj, hcopied.out i j hj⟩⟩
  case inside => rw [hcopied.cin i j hj, if_pos (mem_indices.2 ⟨hfirst, hlast⟩)]
  case outside =>
    have hmem : i ∉ indices first last := by rw [mem_indices]; omega
    rw [hcopied.cin i j hj, if_neg hmem]

/-! ### Completion in time -/

/-- Settles O46: the poll sees BUSY and leaves the engine its turn, which ends the command, so the next poll sees BUSY clear. -/
theorem waitEndsWithCompletion : Obligations.WaitEndsWithCompletion := by
  unfold Obligations.WaitEndsWithCompletion
  intro s rest hinv hbusy ha
  have hsee : statusBusy s.status = true := hinv.phaseMirrored.1 hbusy
  have hstatus : s.status = statusAccepted := eq_statusAccepted_of_busy _ hinv.statusLegal hsee
  have htAgenda : s.popAgenda.poll.agenda = .engine :: .host .wait :: rest := by simp [hsee, ha]
  obtain ⟨u, htu, hended⟩ := step_ended (s := s.popAgenda.poll) (.inr ⟨_, htAgenda⟩) hbusy
  obtain ⟨-, -, -, -, -, -, -, -, -, huAgenda, huNotes, -, -⟩ := hended.commandFrame
  rw [State.popAgenda_agenda, htAgenda, List.tail_cons] at huAgenda
  have hdone : statusBusy u.status = false := (completionWords_not_busy _ hended.status_mem).1
  refine ⟨_, u, u.popAgenda.poll, step_wait ⟨rest, ha⟩, htu, step_wait ⟨rest, huAgenda⟩, hbusy, hended.phase,
    hended.phase, ?agenda, ?notes⟩
  case agenda => simp [hdone, huAgenda]
  case notes => rw [State.notes_poll_popAgenda, huNotes, State.popAgenda_notes, State.notes_poll_popAgenda, hstatus]; rfl

/-- Settles O56. -/
theorem busyEngineCompletes : Obligations.BusyEngineCompletes := by
  unfold Obligations.BusyEngineCompletes
  intro s hbusy hduties
  exact exists_run_idle _ rfl hbusy hduties

end Sys2Proof.EncodingProofs
end

section
/-! SUPPORT. What an error completion reports and leaves unchanged (spec/60_exceptions.md R130). -/

namespace Sys2Proof.Machine

open Sys2Proof.Safety Sys2Proof.Claims

/-- R130: the fields of an error's STATUS word do not overlap, so they add up. -/
theorem statusError_eq_ofNat (e : ErrorKind) (d : Nat) :
    statusError e d = BitVec.ofNat 32 (2 + 16 * e.code + 256 * d) := by
  have hlow : (1 <<< 1) ||| (e.code <<< 4) = 2 + 16 * e.code := by cases e <;> rfl
  have hlt : 2 + 16 * e.code < 2 ^ 8 := by cases e <;> decide
  rw [statusError, hlow, Nat.or_comm, ← Nat.shiftLeft_add_eq_or_of_lt hlt, Nat.shiftLeft_eq]
  congr 1
  omega

theorem failed_raise (s : State) (e : ErrorKind) (d : Nat) : Failed (s.raise e d) e.code d :=
  ⟨statusError_eq_ofNat e d, rfl⟩

/-- R130: an error of the table of R132, raised with nothing written before, fails clean. -/
theorem failsClean_of_raise {i : Instr} {s : State} {e : ErrorKind} {d : Nat} (hmem : (e, d) ∈ errorDetails)
    (h : exec i s = .next (s.raise e d)) : FailsClean i s e.code d :=
  ⟨_, h, failed_raise s e d, (Ended.failed hmem).commandFrame, ⟨rfl, rfl, rfl⟩, rfl,
    fun p j => s.sample_raise e d .out p j⟩

/-! ### A carrier that is too small -/

theorem failsClean_hdrWrite_of_small {bps sf : Nat} {s : State} (hlegal : LegalPair bps sf)
    (hsmall : s.carW.toNat * s.carH.toNat < 8) : FailsClean (.hdrWrite bps sf) s 2 1 := by
  rcases execHdrWrite_cases bps sf s with ⟨hbad, -⟩ | ⟨-, -, h⟩ | ⟨-, hcap, -⟩
  · exact absurd (checkParams_of_legal hlegal) hbad
  · exact failsClean_of_raise (e := .insufficientCapacity) (by decide) h
  · exact absurd hsmall (Nat.not_lt.2 hcap)

theorem failsClean_payDecode_of_small {bps sf : Nat} {s : State} (hlegal : LegalPair bps sf)
    (hsmall : s.carW.toNat * s.carH.toNat < 8 + s.payW.toNat * s.payH.toNat * sf) :
    FailsClean (.payDecode bps sf) s 2 2 := by
  rcases execPayDecode_cases bps sf s with ⟨hbad, -⟩ | ⟨-, -, h⟩ | ⟨-, hcap, -⟩
  · exact absurd (checkParams_of_legal hlegal) hbad
  · exact failsClean_of_raise (e := .insufficientCapacity) (by decide) h
  · exact absurd hsmall (Nat.not_lt.2 hcap)

theorem failsClean_embed_of_small {bps sf : Nat} {s : State} (hlegal : LegalPair bps sf)
    (hsmall : s.carW.toNat * s.carH.toNat < 8 + s.payW.toNat * s.payH.toNat * sf) :
    FailsClean (.embed bps sf) s 2 2 := by
  rcases execEmbed_cases bps sf s with ⟨hbad, -⟩ | ⟨-, -, h⟩ | ⟨-, hcap, -⟩
  · exact absurd (checkParams_of_legal hlegal) hbad
  · exact failsClean_of_raise (e := .insufficientCapacity) (by decide) h
  · exact absurd hsmall (Nat.not_lt.2 hcap)

theorem failsClean_hdrRead_of_short {s : State} (x y : Nat) (hshort : s.carW.toNat * s.carH.toNat < 8) :
    FailsClean (.hdrRead x y) s 3 1 := by
  rcases execHdrRead_cases x y s with ⟨-, h⟩ | ⟨hcap, -⟩ | ⟨hcap, -⟩
  · exact failsClean_of_raise (e := .headerInvalid) (by decide) h
  all_goals exact absurd hshort (Nat.not_lt.2 hcap)

/-- R122: where there is no header, or one that fails, EXTRACT does what HDR_READ does. -/
theorem exec_extract_eq_hdrRead {s : State} (x y : Nat) (hfail : s.carW.toNat * s.carH.toNat < 8 ∨ s.headerDetail ≠ 0) :
    exec (.extract x y) s = exec (.hdrRead x y) s := by
  show execExtract x y s = execHdrRead x y s
  unfold execExtract execHdrRead
  rcases hfail with hshort | hbad
  · rw [if_pos (show s.cap < 8 from hshort), if_pos (show s.cap < 8 from hshort)]
  · rw [if_pos hbad, if_pos hbad]

theorem failsClean_extract_of_short {s : State} (x y : Nat) (hshort : s.carW.toNat * s.carH.toNat < 8) :
    FailsClean (.extract x y) s 3 1 := by
  unfold FailsClean
  rw [exec_extract_eq_hdrRead x y (.inl hshort)]
  exact failsClean_hdrRead_of_short x y hshort

end Sys2Proof.Machine
end

section
/-! SUPPORT. The verdict on a header (spec/41_header_codec.md R93) and a header read as a whole (R92, R96). -/

namespace Sys2Proof.Claims

open Sys2Proof.Machine

/-! ### The verdict -/

theorem headerVerdict_headerCheck (w h b s cap : Nat) : HeaderVerdict w h b s cap (headerCheck w h b s cap) := by
  unfold headerCheck HeaderVerdict
  split_ifs with hsize hsBig hbBig hb hs hmod hfit
  · exact .inl ⟨hsize, rfl⟩
  · exact .inr (.inl (by omega))
  · exact .inr (.inr (.inl (by omega)))
  · exact .inr (.inr (.inr (.inl (by omega))))
  · exact .inr (.inr (.inr (.inr (.inl (by omega)))))
  · exact .inr (.inr (.inr (.inr (.inr (.inl (by omega))))))
  · exact .inr (.inr (.inr (.inr (.inr (.inr (.inl (by omega)))))))
  · exact .inr (.inr (.inr (.inr (.inr (.inr (.inr (by omega)))))))

/-- R93: the conditions are ordered, so a header has one verdict. -/
theorem HeaderVerdict.unique {w h b s cap d d' : Nat} (hd : HeaderVerdict w h b s cap d)
    (hd' : HeaderVerdict w h b s cap d') : d = d' := by
  unfold HeaderVerdict at hd hd'
  rcases hd with hd | hd | hd | hd | hd | hd | hd | hd
  all_goals omega

theorem headerCheck_eq_iff {w h b s cap d : Nat} : headerCheck w h b s cap = d ↔ HeaderVerdict w h b s cap d := by
  constructor
  · rintro rfl
    exact headerVerdict_headerCheck w h b s cap
  · exact (headerVerdict_headerCheck w h b s cap).unique

/-- R93, R133: a header that passes carries a legal pair. -/
theorem HeaderVerdict.legalPair {w h b s cap : Nat} (hpass : HeaderVerdict w h b s cap 0) : LegalPair b s := by
  unfold HeaderVerdict at hpass
  unfold LegalPair
  omega

/-! ### The slots -/

/-- R76: a buffer with the slot bits of another holds the same header. -/
theorem HeaderHeld.of_slotBits {st u : State} {buf buf' : BufId} {w h b s : Nat} (hheld : HeaderHeld st buf w h b s)
    (hbits : ∀ i j c, i < 8 → j < 3 → SlotBit i j c →
      (u.sample buf' i j).getLsbD c = (st.sample buf i j).getLsbD c) : HeaderHeld u buf' w h b s := by
  obtain ⟨hw, hh, hb, hs, hwidth, hheight, hbps, hsf⟩ := hheld
  refine ⟨hw, hh, hb, hs, fun p j c hp hj hc => ?_, fun p j c hp hj hc => ?_, fun j c hj hc => ?_, fun j c hj hc => ?_⟩
  · rw [hbits p j c (by omega) hj ⟨hc, by omega⟩, hwidth p j c hp hj hc]
  · rw [hbits (3 + p) j c (by omega) hj ⟨hc, by omega⟩, hheight p j c hp hj hc]
  · rw [hbits 6 j c (by omega) (by omega) ⟨hc, by omega⟩, hbps j c hj hc]
  · rw [hbits 7 j c (by omega) (by omega) ⟨hc, by omega⟩, hsf j c hj hc]

theorem CarrierCopied.headerHeld {t u : State} {w h b s : Nat} (hcopied : CarrierCopied t u) (hcap : 8 ≤ t.cap)
    (hheld : HeaderHeld t .out w h b s) : HeaderHeld u .cin w h b s := by
  obtain ⟨-, -, hsame⟩ := hcopied
  refine hheld.of_slotBits fun i j c hi hj _ => ?_
  rw [hsame i j (by omega) hj]

end Sys2Proof.Claims

namespace Sys2Proof.Machine

open Sys2Proof.Claims

theorem State.headerHeld_hdrExtract (st : State) : HeaderHeld st .cin st.hdrExtract.w.toNat st.hdrExtract.h.toNat
    st.hdrExtract.b.toNat st.hdrExtract.s.toNat :=
  headerHeld_cin_iff.2 ⟨rfl, rfl, rfl, rfl⟩

theorem State.headerDetail_of_held {st : State} {w h b s d : Nat} (hheld : HeaderHeld st .cin w h b s)
    (hverdict : HeaderVerdict w h b s (st.carW.toNat * st.carH.toNat) d) : st.headerDetail = d := by
  obtain ⟨rfl, rfl, rfl, rfl⟩ := headerHeld_cin_iff.1 hheld
  exact headerCheck_eq_iff.2 hverdict

/-! ### Reading a header -/

/-- R33: two nibbles in one byte. -/
theorem toNat_setWidth_or_shiftLeft (b s : Nibble) :
    (b.setWidth 8 ||| (s.setWidth 8 <<< 4) : Byte).toNat = b.toNat + 16 * s.toNat := by
  have hb := b.isLt
  have hs := s.isLt
  have hshift : (s.setWidth 8 <<< 4 : Byte).toNat = s.toNat <<< 4 := by
    rw [BitVec.toNat_shiftLeft, BitVec.toNat_setWidth_of_le (by decide), Nat.shiftLeft_eq]
    omega
  rw [BitVec.toNat_or, hshift, BitVec.toNat_setWidth_of_le (by decide), Nat.or_comm,
    ← Nat.shiftLeft_add_eq_or_of_lt hb, Nat.shiftLeft_eq]
  omega

theorem State.hdrHolds_loadHeader {st : State} {w h b s : Nat} (hheld : HeaderHeld st .cin w h b s) :
    HdrHolds st.loadHeader w h b s := by
  obtain ⟨rfl, rfl, rfl, rfl⟩ := headerHeld_cin_iff.1 hheld
  exact ⟨rfl, rfl, toNat_setWidth_or_shiftLeft _ _⟩

/-- R96: `t` is `st` after a header read that has found the header `(w, h, b, s)` with verdict `d`. -/
structure HeaderReported (st t : State) (w h b s d : Nat) : Prop where
  succeeded : d = 0 → Succeeded t
  failed : d ≠ 0 → Failed t 3 d
  hdr : HdrHolds t w h b s
  frame : CommandFrame st t
  out : t.out = st.out
  sample : ∀ i j, t.sample .out i j = st.sample .out i j

/-- R96. -/
theorem exec_hdrRead_of_held {w h b s d : Nat} {st : State} (x y : Nat) (hcap : 8 ≤ st.carW.toNat * st.carH.toNat)
    (hheld : HeaderHeld st .cin w h b s) (hverdict : HeaderVerdict w h b s (st.carW.toNat * st.carH.toNat) d) :
    ∃ t, exec (.hdrRead x y) st = .next t ∧ HeaderReported st t w h b s d := by
  obtain rfl := State.headerDetail_of_held hheld hverdict
  have hhdr := State.hdrHolds_loadHeader hheld
  rcases execHdrRead_cases x y st with ⟨hshort, -⟩ | ⟨-, hbad, hexec⟩ | ⟨-, hpass, hexec⟩
  · exact absurd hcap (Nat.not_le.2 hshort)
  · exact ⟨_, hexec, fun hpass => absurd hpass hbad, fun _ => failed_raise .., hhdr,
      (Ended.headerFailed (State.headerDetail_mem hbad)).commandFrame, rfl, by simp⟩
  · exact ⟨_, hexec, fun _ => ⟨rfl, rfl⟩, fun hbad => absurd hpass hbad, hhdr, Ended.headerRead.commandFrame, rfl,
      by simp⟩

/-- R96: the header and its verdict fix the report. -/
theorem HeaderReported.report_eq {st st' t t' : State} {w h b s d : Nat} (ht : HeaderReported st t w h b s d)
    (ht' : HeaderReported st' t' w h b s d) : HdrSame t t' ∧ t'.status = t.status := by
  obtain ⟨hw, hh, hparams⟩ := ht.hdr
  obtain ⟨hw', hh', hparams'⟩ := ht'.hdr
  refine ⟨⟨BitVec.eq_of_toNat_eq (hw'.trans hw.symm), BitVec.eq_of_toNat_eq (hh'.trans hh.symm),
    BitVec.eq_of_toNat_eq (hparams'.trans hparams.symm)⟩, ?_⟩
  by_cases hd : d = 0
  · exact (ht'.succeeded hd).1.trans (ht.succeeded hd).1.symm
  · exact (ht'.failed hd).1.trans (ht.failed hd).1.symm

/-- R122: EXTRACT on a header that passes. -/
theorem exec_extract_of_passes {st : State} (x y : Nat) (hcap : 8 ≤ st.carW.toNat * st.carH.toNat)
    (hpass : st.headerDetail = 0) :
    exec (.extract x y) st = .next (st.loadHeader.writeOut (st.hdrExtract.w.toNat * st.hdrExtract.h.toNat)
      (st.gatherSample st.hdrExtract.b.toNat st.hdrExtract.s.toNat)).complete := by
  rcases execExtract_cases x y st with ⟨hshort, -⟩ | ⟨-, hbad, -⟩ | ⟨-, -, hexec⟩
  · exact absurd hcap (Nat.not_le.2 hshort)
  · exact absurd hpass hbad
  · exact hexec

end Sys2Proof.Machine
end

section
/-! SUPPORT. gather bit by bit (spec/42_payload_codec.md R110, R113). -/

namespace Sys2Proof.Machine

open Sys2Proof.Claims

@[simp] theorem testBit_lowMask (n i : Nat) : (lowMask n).testBit i = decide (i < n) := by
  rw [lowMask, Nat.one_shiftLeft, Nat.testBit_two_pow_sub_one]

theorem gatherLoop_cons {xs : List Byte} (h : xs ≠ []) (b bpp acc : Nat) (x : Byte) :
    gatherLoop b bpp acc (x :: xs) = gatherLoop b bpp ((acc ||| (x.toNat &&& lowMask bpp)) <<< bpp) xs := by
  cases xs with
  | nil => exact absurd rfl h
  | cons => rfl

/-- R110, step 3: the last position moves the result up by `8 - b`. -/
theorem testBit_gatherLoop_of_lt (b bpp acc : Nat) {xs : List Byte} (hxs : xs ≠ []) {i : Nat} (hi : i < 8 - b) :
    (gatherLoop b bpp acc xs).testBit i = false := by
  induction xs generalizing acc with
  | nil => exact absurd rfl hxs
  | cons x xs ih =>
    by_cases hnil : xs = []
    · have hbelow : ¬ 8 ≤ i + b := by omega
      simp [hnil, gatherLoop, hbelow]
    · rw [gatherLoop_cons hnil]
      exact ih _ hnil

/-- R110: every position after the first moves the first position's chunk, and what lies above it, up by `bpp`. -/
theorem testBit_gatherLoop_head (b bpp acc : Nat) (x : Byte) (xs : List Byte) (i : Nat) :
    (gatherLoop b bpp acc (x :: xs)).testBit (8 - b + xs.length * bpp + i) =
      (acc.testBit i || x.getLsbD i && decide (i < bpp)) := by
  induction xs generalizing acc x i with
  | nil => simp [gatherLoop, BitVec.testBit_toNat]
  | cons y xs ih =>
    have hpos : 8 - b + (y :: xs).length * bpp + i = 8 - b + xs.length * bpp + (bpp + i) := by
      rw [List.length_cons, Nat.succ_mul]; omega
    rw [gatherLoop_cons (List.cons_ne_nil y xs), hpos, ih]
    simp [BitVec.testBit_toNat]

/-- R110: the chunk of each position stays where the positions after it have moved it. -/
theorem testBit_gatherLoop_append (b bpp acc : Nat) (pre : List Byte) (x : Byte) (post : List Byte) {i : Nat}
    (hi : i < bpp) (hacc : ∀ j < bpp, acc.testBit j = false) :
    (gatherLoop b bpp acc (pre ++ x :: post)).testBit (8 - b + post.length * bpp + i) = x.getLsbD i := by
  induction pre generalizing acc with
  | nil => simp [testBit_gatherLoop_head, hacc i hi, hi]
  | cons y pre ih =>
    rw [List.cons_append, gatherLoop_cons (by simp)]
    exact ih _ fun j hj => by simp [hj]

/-- R110: position `k` of the run gives the `k`-th chunk of the sample, most significant first. -/
theorem getLsbD_gather {b s : Nat} (hlegal : LegalPair b s) {xs : List Byte} (hlen : xs.length = s) {k x : Nat}
    (hk : k < s) (hx : x < b / s) :
    (gather b s xs).getLsbD (8 - (k + 1) * (b / s) + x) = (xs.getD k 0).getLsbD x := by
  obtain ⟨-, hb, -, -, hmod⟩ := hlegal
  have hmul : s * (b / s) = b := Nat.mul_div_cancel' (Nat.dvd_of_mod_eq_zero hmod)
  have hle : (k + 1) * (b / s) ≤ s * (b / s) := Nat.mul_le_mul_right _ hk
  have hk' : k < xs.length := hlen ▸ hk
  have hsplit : xs.take k ++ xs[k] :: xs.drop (k + 1) = xs := by simp
  have hchunk := testBit_gatherLoop_append b (b / s) 0 (xs.take k) xs[k] (xs.drop (k + 1)) hx (by simp)
  have hpos : 8 - (k + 1) * (b / s) + x = 8 - b + (xs.drop (k + 1)).length * (b / s) + x := by
    rw [List.length_drop, hlen, Nat.sub_mul]; omega
  have hlt : 8 - (k + 1) * (b / s) + x < 8 := by
    have : b / s ≤ (k + 1) * (b / s) := Nat.le_mul_of_pos_left _ k.succ_pos
    omega
  rw [hsplit, ← hpos] at hchunk
  rw [gather, BitVec.getLsbD_ofNat, decide_eq_true hlt, Bool.true_and, List.getD_eq_getElem _ _ hk']
  exact hchunk

theorem getLsbD_gather_of_lt {b s : Nat} {xs : List Byte} (hxs : xs ≠ []) {x : Nat} (hx : x < 8 - b) :
    (gather b s xs).getLsbD x = false := by
  rw [gather, BitVec.getLsbD_ofNat, testBit_gatherLoop_of_lt _ _ _ hxs hx, Bool.and_false]

/-- R113: what payGather writes is gathered from its run. -/
theorem State.gathered_gatherSample (st : State) {b s : Nat} (hlegal : LegalPair b s) (r j : Nat) :
    Gathered st b s r j (st.gatherSample b s r j) := by
  refine ⟨fun k x hk hx => ?_, fun x hx => ?_⟩
  · rw [State.gatherSample, getLsbD_gather hlegal (by simp) hk hx]
    simp [hk, runPixel]
  · obtain ⟨-, -, hs, -⟩ := hlegal
    have hrun : (List.range s).map (fun k => st.sample .cin (runPixel s r k) j) ≠ [] := by simpa using Nat.ne_of_gt hs
    exact getLsbD_gather_of_lt hrun hx

end Sys2Proof.Machine
end

section
/-! The obligations of spec/41_header_codec.md. -/

namespace Sys2Proof.HeaderProofs

open Sys2Proof.Machine Sys2Proof.Safety Sys2Proof.Claims

/-! ### Errors -/

/-- Settles O11: the capacity check is the only one left, and nothing is written before it. -/
theorem smallCarriersFail : Obligations.SmallCarriersFail := by
  unfold Obligations.SmallCarriersFail
  intro bps sf s hlegal
  exact ⟨failsClean_hdrWrite_of_small hlegal,
    fun hsmall => ⟨failsClean_payDecode_of_small hlegal hsmall, failsClean_embed_of_small hlegal hsmall⟩⟩

/-- Settles O17. -/
theorem shortCarrierHasNoHeader : Obligations.ShortCarrierHasNoHeader := by
  unfold Obligations.ShortCarrierHasNoHeader
  intro x y s hshort
  exact ⟨failsClean_hdrRead_of_short x y hshort, failsClean_extract_of_short x y hshort⟩

/-! ### Reading a header -/

/-- Settles O15: headerCheck answers a verdict, and a header has only one. -/
theorem headerCheckReportsFirstCondition : Obligations.HeaderCheckReportsFirstCondition := by
  unfold Obligations.HeaderCheckReportsFirstCondition
  intro w h b s cap d _
  exact headerCheck_eq_iff

/-- Settles O16. -/
theorem hdrReadReportsHeader : Obligations.HdrReadReportsHeader := by
  unfold Obligations.HdrReadReportsHeader
  intro x y w h b s d st hcap hheld hverdict
  obtain ⟨t, hexec, hreport⟩ := exec_hdrRead_of_held x y hcap hheld hverdict
  exact ⟨t, hexec, hreport.succeeded, hreport.failed, hreport.hdr, hreport.frame, hreport.out, hreport.sample⟩

/-- Settles O18: HDR_WRITE leaves the header in the slots of OUT, the copy takes it to those of CIN, and a header read,
whatever its verdict, reports what they hold. -/
theorem headerRoundTrip : Obligations.HeaderRoundTrip := by
  unfold Obligations.HeaderRoundTrip
  intro bps sf x y s hlegal hcap
  obtain ⟨t, hexec, hwrote⟩ := exec_hdrWrite_of_legal hlegal hcap
  refine ⟨t, hexec, fun u hcopied => ?_⟩
  obtain ⟨-, hcarW, hcarH, -⟩ := hwrote.frame
  have htcap : 8 ≤ t.carW.toNat * t.carH.toNat := by rwa [hcarW, hcarH]
  have hheld := hcopied.headerHeld htcap (hwrote.headerHeld hlegal hcap)
  obtain ⟨hw, hh, hb, hs⟩ := headerHeld_cin_iff.1 hheld
  obtain ⟨hcarW', hcarH', -⟩ := hcopied
  have hucap : 8 ≤ u.carW.toNat * u.carH.toNat := by rwa [hcarW', hcarH']
  obtain ⟨v, hread, hreport⟩ := exec_hdrRead_of_held x y hucap hheld (headerVerdict_headerCheck ..)
  exact ⟨⟨BitVec.eq_of_toNat_eq hw, BitVec.eq_of_toNat_eq hh, hb, hs⟩, v, hread, hreport.hdr⟩

/-- Settles O19: the slot bits fix the header, the header and the capacity fix the verdict, and these two fix the report. -/
theorem headerReadSeesOnlySlotBits : Obligations.HeaderReadSeesOnlySlotBits := by
  unfold Obligations.HeaderReadSeesOnlySlotBits
  intro x y s s' hcarW hcarH hcap hbits
  have hheld := s.headerHeld_hdrExtract
  obtain ⟨d, hverdict⟩ : ∃ d, HeaderVerdict s.hdrExtract.w.toNat s.hdrExtract.h.toNat s.hdrExtract.b.toNat
      s.hdrExtract.s.toNat (s.carW.toNat * s.carH.toNat) d := ⟨_, headerVerdict_headerCheck ..⟩
  obtain ⟨t, hexec, hreport⟩ := exec_hdrRead_of_held x y hcap hheld hverdict
  rw [← hcarW, ← hcarH] at hcap hverdict
  obtain ⟨t', hexec', hreport'⟩ := exec_hdrRead_of_held x y hcap (hheld.of_slotBits hbits) hverdict
  obtain ⟨hhdr, hstatus⟩ := hreport.report_eq hreport'
  exact ⟨t, t', hexec, hexec', hhdr, hstatus⟩

/-! ### EXTRACT -/

/-- Settles O29: a header that passes has a legal pair, so each sample of OUT is gathered from its run. -/
theorem extractGathersByHeader : Obligations.ExtractGathersByHeader := by
  unfold Obligations.ExtractGathersByHeader
  intro x y w h b s st hcap hheld hpass
  have hexec := exec_extract_of_passes x y hcap (State.headerDetail_of_held hheld hpass)
  have hhdr := State.hdrHolds_loadHeader hheld
  obtain ⟨rfl, rfl, rfl, rfl⟩ := headerHeld_cin_iff.1 hheld
  refine ⟨_, hexec, ⟨rfl, rfl⟩, hhdr, fun r j hr hj => ?gathered, fun i j hj hi => ?beyond,
    (Ended.extracted ..).commandFrame⟩
  all_goals rw [State.sample_complete, State.sample_out_writeOut _ _ _ _ hj]
  case gathered =>
    rw [if_pos hr]
    exact st.gathered_gatherSample hpass.legalPair r j
  case beyond => rw [if_neg (Nat.not_lt.2 hi), State.sample_loadHeader]

/-- Settles O30: EXTRACT then does what HDR_READ does. -/
theorem extractFailsOnBadHeader : Obligations.ExtractFailsOnBadHeader := by
  unfold Obligations.ExtractFailsOnBadHeader
  intro x y w h b s d st hcap hheld hverdict hbad
  obtain ⟨t, hexec, hreport⟩ := exec_hdrRead_of_held x y hcap hheld hverdict
  have hdetail : st.headerDetail ≠ 0 := (State.headerDetail_of_held hheld hverdict).trans_ne hbad
  exact ⟨t, (exec_extract_eq_hdrRead x y (.inr hdetail)).trans hexec, hreport.failed hbad, hreport.hdr, hreport.frame,
    hreport.out, hreport.sample⟩

end Sys2Proof.HeaderProofs
end

section
/-! SUPPORT. The payload codec as arithmetic (spec/42_payload_codec.md R105, R111): a chunk and the gathered sample as
numbers. -/

namespace Sys2Proof.Machine

open Sys2Proof.Claims

/-! ### Chunks -/

theorem div_mul_of_legal {bps sf : Nat} (hlegal : LegalPair bps sf) : bps / sf * sf = bps := by
  obtain ⟨-, -, -, -, hmod⟩ := hlegal
  exact bitsPerPixel_mul hmod

theorem div_le_of_legal {bps sf : Nat} (hlegal : LegalPair bps sf) : bps / sf ≤ 8 := by
  obtain ⟨-, hbps, -⟩ := hlegal
  exact (Nat.div_le_self bps sf).trans hbps

/-- The chunks up to position `k` fit in the top `bps` bits. -/
theorem chunkEnd_le_of_legal {bps sf k : Nat} (hlegal : LegalPair bps sf) (hk : k < sf) : (k + 1) * (bps / sf) ≤ bps :=
  calc (k + 1) * (bps / sf) ≤ sf * (bps / sf) := Nat.mul_le_mul_right _ hk
    _ = bps := by rw [Nat.mul_comm, div_mul_of_legal hlegal]

theorem toNat_chunk {bpp : Nat} (h : bpp ≤ 8) (v : Byte) (k : Nat) :
    (chunk bpp v k).toNat = v.toNat / 2 ^ (8 - (k + 1) * bpp) % 2 ^ bpp := by
  have hmask : 2 ^ bpp - 1 < 2 ^ 8 := (Nat.sub_lt (Nat.two_pow_pos bpp) Nat.one_pos).trans_le
    (Nat.pow_le_pow_right Nat.two_pos h)
  rw [chunk, lowMask, BitVec.toNat_and, BitVec.toNat_ushiftRight, BitVec.toNat_ofNat, Nat.one_shiftLeft,
    Nat.mod_eq_of_lt hmask, Nat.and_two_pow_sub_one_eq_mod, Nat.shiftRight_eq_div_pow]

/-! ### The closed form of gather -/

/-- R111: the sum of the chunks of a run, each at its place. -/
def chunkSum (bpp : Nat) (xs : List Byte) : Nat :=
  ((List.range xs.length).map (fun k => ((xs.getD k 0).toNat % 2 ^ bpp) * 2 ^ (bpp * (xs.length - 1 - k)))).sum

@[simp] theorem chunkSum_nil (bpp : Nat) : chunkSum bpp [] = 0 := rfl

/-- The first chunk is the most significant one. -/
theorem chunkSum_cons (bpp : Nat) (x : Byte) (xs : List Byte) :
    chunkSum bpp (x :: xs) = x.toNat % 2 ^ bpp * 2 ^ (bpp * xs.length) + chunkSum bpp xs := by
  simp [chunkSum, List.range_succ_eq_map, Function.comp_def, Nat.sub_sub, Nat.add_comm 1]

theorem chunkSum_lt (bpp : Nat) (xs : List Byte) : chunkSum bpp xs < 2 ^ (bpp * xs.length) := by
  induction xs with
  | nil => simp
  | cons x xs ih =>
    have hchunk : x.toNat % 2 ^ bpp + 1 ≤ 2 ^ bpp := Nat.mod_lt _ (Nat.two_pow_pos bpp)
    calc chunkSum bpp (x :: xs)
        < x.toNat % 2 ^ bpp * 2 ^ (bpp * xs.length) + 2 ^ (bpp * xs.length) := by
          rw [chunkSum_cons]; exact Nat.add_lt_add_left ih _
      _ = (x.toNat % 2 ^ bpp + 1) * 2 ^ (bpp * xs.length) := (Nat.succ_mul ..).symm
      _ ≤ 2 ^ bpp * 2 ^ (bpp * xs.length) := Nat.mul_le_mul_right _ hchunk
      _ = 2 ^ (bpp * (x :: xs).length) := by rw [← Nat.pow_add, List.length_cons, Nat.mul_succ, Nat.add_comm]

/-- R110, step 1: OR adds the chunk, since the low `bpp` bits of the accumulator are free. -/
theorem or_and_lowMask {acc bpp : Nat} (hacc : 2 ^ bpp ∣ acc) (x : Nat) :
    acc ||| (x &&& lowMask bpp) = acc + x % 2 ^ bpp := by
  obtain ⟨a, rfl⟩ := hacc
  rw [lowMask, Nat.one_shiftLeft, Nat.and_two_pow_sub_one_eq_mod,
    Nat.two_pow_add_eq_or_of_lt (Nat.mod_lt _ (Nat.two_pow_pos bpp))]

/-- R111: the loop moves the accumulator past the run and adds the run's sum. -/
theorem gatherLoop_cons_eq_chunkSum (b bpp : Nat) {acc : Nat} (hacc : 2 ^ bpp ∣ acc) (x : Byte) (xs : List Byte) :
    gatherLoop b bpp acc (x :: xs) = (acc * 2 ^ (bpp * xs.length) + chunkSum bpp (x :: xs)) * 2 ^ (8 - b) := by
  induction xs generalizing acc x with
  | nil => simp [gatherLoop, or_and_lowMask hacc, chunkSum_cons, Nat.shiftLeft_eq]
  | cons y ys ih =>
    rw [gatherLoop_cons (List.cons_ne_nil y ys), or_and_lowMask hacc, Nat.shiftLeft_eq, ih (Nat.dvd_mul_left ..),
      chunkSum_cons bpp x, List.length_cons, Nat.mul_succ, Nat.pow_add]
    ring

/-- R111: the sum stays below `2^b`, so the gathered sample stays below 256. -/
theorem chunkSum_mul_lt {b s : Nat} (hlegal : LegalPair b s) {xs : List Byte} (hlen : xs.length = s) :
    chunkSum (b / s) xs * 2 ^ (8 - b) < 256 := by
  have hsum := chunkSum_lt (b / s) xs
  rw [hlen, div_mul_of_legal hlegal] at hsum
  obtain ⟨-, hb, -⟩ := hlegal
  calc chunkSum (b / s) xs * 2 ^ (8 - b) < 2 ^ b * 2 ^ (8 - b) := Nat.mul_lt_mul_of_pos_right hsum (Nat.two_pow_pos _)
    _ = 256 := by rw [← Nat.pow_add, Nat.add_sub_cancel' hb]

/-- R111. -/
theorem toNat_gather {b s : Nat} (hlegal : LegalPair b s) {xs : List Byte} (hlen : xs.length = s) :
    (gather b s xs).toNat = chunkSum (b / s) xs * 2 ^ (8 - b) := by
  have hloop : gatherLoop b (b / s) 0 xs = chunkSum (b / s) xs * 2 ^ (8 - b) := by
    cases xs with
    | nil => simp [gatherLoop]
    | cons x xs => rw [gatherLoop_cons_eq_chunkSum _ _ (Nat.dvd_zero _), Nat.zero_mul, Nat.zero_add]
  rw [gather, bitsPerPixel, hloop, BitVec.toNat_ofNat, Nat.mod_eq_of_lt (chunkSum_mul_lt hlegal hlen)]

/-! ### Spread, then gather -/

/-- R105: each of the top `bps` bits of a sample lies in one of the `sf` chunks. -/
theorem exists_chunk_position {bps sf : Nat} (hlegal : LegalPair bps sf) {x : Nat} (hx : x < 8) (htop : 8 - bps ≤ x) :
    ∃ k y, k < sf ∧ y < bps / sf ∧ x = 8 - (k + 1) * (bps / sf) + y := by
  have hmul := div_mul_of_legal hlegal
  have ⟨hpos, hbps, _⟩ := hlegal
  have hbpp : 0 < bps / sf := Nat.pos_of_mul_pos_right (hmul.symm ▸ hpos)
  have hk : (7 - x) / (bps / sf) < sf := Nat.div_lt_of_lt_mul (by omega)
  have hrem : (7 - x) % (bps / sf) < bps / sf := Nat.mod_lt _ hbpp
  have hdiv : (7 - x) / (bps / sf) * (bps / sf) + (7 - x) % (bps / sf) = 7 - x := Nat.div_add_mod' ..
  have hend := chunkEnd_le_of_legal hlegal hk
  refine ⟨(7 - x) / (bps / sf), bps / sf - 1 - (7 - x) % (bps / sf), hk, by omega, ?_⟩
  rw [Nat.succ_mul] at hend ⊢
  omega

/-- R114: the top `bps` bits come back chunk by chunk, and gather zeroes the others. -/
theorem gather_encChannel {bps sf : Nat} (hlegal : LegalPair bps sf) (v : Byte) (carrier : Nat → Byte) :
    gather bps sf ((List.range sf).map (fun k => encChannel (bitsPerPixel bps sf) (carrier k) v k)) =
      v &&& ((0xFF : Byte) <<< (8 - bps)) := by
  refine BitVec.eq_of_getLsbD_eq fun x hx => ?_
  rw [BitVec.getLsbD_and, getLsbD_highMask _ hx]
  by_cases htop : 8 - bps ≤ x
  · obtain ⟨k, y, hk, hy, rfl⟩ := exists_chunk_position hlegal hx htop
    obtain ⟨hchunk, -⟩ := spread_encChannel (div_le_of_legal hlegal) k (carrier k) v
    rw [getLsbD_gather hlegal (by simp) hk hy]
    simpa [hk, htop, bitsPerPixel] using hchunk y hy
  · obtain ⟨-, -, hsf, -⟩ := hlegal
    have hrun : (List.range sf).map (fun k => encChannel (bitsPerPixel bps sf) (carrier k) v k) ≠ [] := by
      simpa using Nat.ne_of_gt hsf
    rw [getLsbD_gather_of_lt hrun (Nat.lt_of_not_le htop)]
    simp [htop]

end Sys2Proof.Machine
end

section
/-! SUPPORT. PAY_ENCODE and PAY_DECODE as a whole (spec/42_payload_codec.md R108, R112), and the samples that each sample they
write depends on (R109, R117). -/

namespace Sys2Proof.Machine

open Sys2Proof.Claims

/-- R108. -/
theorem exec_payEncode_of_legal {bps sf : Nat} (s : State) (hlegal : LegalPair bps sf) :
    ∃ t, exec (.payEncode bps sf) s = .next t ∧ WroteOut s t (s.carW.toNat * s.carH.toNat) (fun i j =>
      if i < 8 then s.sample .cin i j else s.spreadSample bps sf i j) := by
  rcases execPayEncode_cases bps sf s with ⟨hbad, -⟩ | ⟨-, h⟩
  · exact absurd (checkParams_of_legal hlegal) hbad
  · exact ⟨_, h, wroteOut_complete ..⟩

/-- R112. -/
theorem exec_payDecode_of_fits {bps sf : Nat} {s : State} (hlegal : LegalPair bps sf)
    (hcap : 8 + s.payW.toNat * s.payH.toNat * sf ≤ s.carW.toNat * s.carH.toNat) :
    ∃ t, exec (.payDecode bps sf) s = .next t ∧
      WroteOut s t (s.payW.toNat * s.payH.toNat) (s.gatherSample bps sf) := by
  rcases execPayDecode_cases bps sf s with ⟨hbad, -⟩ | ⟨-, hsmall, -⟩ | ⟨-, -, h⟩
  · exact absurd (checkParams_of_legal hlegal) hbad
  · exact absurd hcap (Nat.not_le.2 hsmall)
  · exact ⟨_, h, wroteOut_complete ..⟩

/-- R117: a carrier sample at its index and one payload sample. -/
theorem State.spreadSample_congr {s s' : State} (hpay : PaySame s s') (bps : Nat) {sf i j : Nat}
    (hcin : s'.sample .cin i j = s.sample .cin i j)
    (hpin : s'.sample .pin ((i - 8) / sf) j = s.sample .pin ((i - 8) / sf) j) :
    s'.spreadSample bps sf i j = s.spreadSample bps sf i j := by
  obtain ⟨hw, hh⟩ := hpay
  have hcount : s'.payCount = s.payCount := by rw [State.payCount, State.payCount, hw, hh]
  rw [State.spreadSample, State.spreadSample, hcount, hcin, show s'.sample .pin (runOf sf i) j = _ from hpin]
  rfl

/-- R117: the carrier samples of one run. -/
theorem State.gatherSample_congr {s s' : State} (bps : Nat) {sf r j : Nat}
    (hrun : ∀ k < sf, s'.sample .cin (8 + r * sf + k) j = s.sample .cin (8 + r * sf + k) j) :
    s'.gatherSample bps sf r j = s.gatherSample bps sf r j := by
  rw [State.gatherSample, State.gatherSample]
  exact congrArg _ (List.map_congr_left fun k hk => hrun k (List.mem_range.1 hk))

/-- R109, R117: what PAY_ENCODE writes to a pixel agrees in two states that agree on its carrier sample and, from pixel 8 on, on
the payload sample of its run. -/
theorem WroteOut.payEncode_sample_congr {s s' t t' : State} {n bps sf i j : Nat} (hpay : PaySame s s')
    (ht : WroteOut s t n (fun i j => if i < 8 then s.sample .cin i j else s.spreadSample bps sf i j))
    (ht' : WroteOut s' t' n (fun i j => if i < 8 then s'.sample .cin i j else s'.spreadSample bps sf i j))
    (hi : i < n) (hj : j < 3) (hcin : s'.sample .cin i j = s.sample .cin i j)
    (hpin : 8 ≤ i → s'.sample .pin ((i - 8) / sf) j = s.sample .pin ((i - 8) / sf) j) :
    t'.sample .out i j = t.sample .out i j := by
  rw [ht.sample i j hi hj, ht'.sample i j hi hj]
  by_cases h8 : i < 8
  · rw [if_pos h8, if_pos h8, hcin]
  · rw [if_neg h8, if_neg h8, State.spreadSample_congr hpay bps hcin (hpin (Nat.le_of_not_lt h8))]

end Sys2Proof.Machine
end

section
/-! The obligations of spec/42_payload_codec.md. -/

namespace Sys2Proof.PayloadProofs

open Sys2Proof.Machine Sys2Proof.Claims

/-! ### One sample -/

/-- Settles O20: the two shifts add up to the one that `chunk` makes. -/
theorem chunksAreTopBitsInOrder : Obligations.ChunksAreTopBitsInOrder := by
  unfold Obligations.ChunksAreTopBitsInOrder
  intro bps sf k v hlegal hk
  have hend := chunkEnd_le_of_legal hlegal hk
  have hbpp := div_le_of_legal hlegal
  obtain ⟨-, hbps, -⟩ := hlegal
  have hshift : 8 - (k + 1) * (bps / sf) = 8 - bps + (bps - (k + 1) * (bps / sf)) := by omega
  rw [bitsPerPixel, toNat_chunk hbpp, hshift, Nat.pow_add, Nat.div_div_eq_div_mul]

/-- Settles O21. -/
theorem gatherClosedForm : Obligations.GatherClosedForm := by
  unfold Obligations.GatherClosedForm
  intro b s xs hlegal hlen
  obtain rfl := hlen
  exact ⟨toNat_gather hlegal rfl, chunkSum_mul_lt hlegal rfl⟩

/-- Settles O22. -/
theorem spreadThenGatherKeepsTopBits : Obligations.SpreadThenGatherKeepsTopBits := by
  unfold Obligations.SpreadThenGatherKeepsTopBits
  intro bps sf v carrier hlegal
  exact gather_encChannel hlegal v carrier

/-- Settles O23: the sample 1 comes back only when no low bit is zeroed, and then every sample does. -/
theorem roundTripExactIffEightBits : Obligations.RoundTripExactIffEightBits := by
  unfold Obligations.RoundTripExactIffEightBits
  intro bps sf hlegal
  constructor
  · intro hexact
    have hone := hexact 1 (fun _ => 0)
    rw [gather_encChannel hlegal] at hone
    have hbit := congrArg (fun v : Byte => v.getLsbD 0) hone
    rw [BitVec.getLsbD_and, getLsbD_highMask _ (by decide)] at hbit
    obtain ⟨-, hbps, -⟩ := hlegal
    have hzeroed : 8 - bps ≤ 0 := by simpa using hbit
    omega
  · rintro rfl v carrier
    rw [gather_encChannel hlegal]
    exact BitVec.and_allOnes

/-! ### Whole buffers -/

/-- Settles O24. -/
theorem payEncodeSpreadsPayload : Obligations.PayEncodeSpreadsPayload := by
  unfold Obligations.PayEncodeSpreadsPayload
  intro bps sf s hlegal
  obtain ⟨t, hexec, hwrote⟩ := exec_payEncode_of_legal s hlegal
  refine ⟨t, hexec, hwrote.succeeded, fun i j hi hj => ⟨fun hcopy => ?copied, fun h8 hrun => ?spread⟩, hwrote.beyond,
    hwrote.frame, hwrote.hdr⟩
  all_goals rw [hwrote.sample i j hi hj]
  case copied =>
    split
    · rfl
    · next h8 => exact s.spreadSample_of_exhausted bps j (hcopy.resolve_left h8)
  case spread =>
    rw [if_neg (Nat.not_lt.2 h8)]
    exact s.spread_spreadSample hlegal j hrun

/-- Settles O25. -/
theorem payDecodeGathersPayload : Obligations.PayDecodeGathersPayload := by
  unfold Obligations.PayDecodeGathersPayload
  intro bps sf s hlegal hcap
  obtain ⟨t, hexec, hwrote⟩ := exec_payDecode_of_fits hlegal hcap
  refine ⟨t, hexec, hwrote.succeeded, fun r j hr hj => ?_, hwrote.beyond, hwrote.frame, hwrote.hdr⟩
  rw [hwrote.sample r j hr hj]
  exact s.gathered_gatherSample hlegal r j

/-! ### What a written sample depends on -/

/-- Settles O26: the run of a carrier pixel starts inside the carrier. -/
theorem unreachedPayloadIsNotRead : Obligations.UnreachedPayloadIsNotRead := by
  unfold Obligations.UnreachedPayloadIsNotRead
  intro bps sf s s' hlegal hcarW hcarH hpayW hpayH hcin hpin
  obtain ⟨t, hexec, hwrote⟩ := exec_payEncode_of_legal s hlegal
  obtain ⟨t', hexec', hwrote'⟩ := exec_payEncode_of_legal s' hlegal
  rw [hcarW, hcarH] at hwrote'
  refine ⟨t, t', hexec, hexec', hwrote'.succeeded.1.trans hwrote.succeeded.1.symm, fun i j hi hj =>
    hwrote.payEncode_sample_congr ⟨hpayW, hpayH⟩ hwrote' hi hj (hcin i j hj) fun h8 => hpin _ j hj ?_⟩
  have hstart : (i - 8) / sf * sf ≤ i - 8 := Nat.div_mul_le_self ..
  omega

/-- Settles O27. -/
theorem runsAreIndependent : Obligations.RunsAreIndependent := by
  unfold Obligations.RunsAreIndependent
  intro bps sf i j s s' hlegal hj hcarW hcarH hpayW hpayH
  refine ⟨fun hi hcin hpin => ?encode, fun hcap hi hrun => ?decode⟩
  case encode =>
    obtain ⟨t, hexec, hwrote⟩ := exec_payEncode_of_legal s hlegal
    obtain ⟨t', hexec', hwrote'⟩ := exec_payEncode_of_legal s' hlegal
    rw [hcarW, hcarH] at hwrote'
    exact ⟨t, t', hexec, hexec', hwrote.payEncode_sample_congr ⟨hpayW, hpayH⟩ hwrote' hi hj hcin fun _ => hpin⟩
  case decode =>
    obtain ⟨t, hexec, hwrote⟩ := exec_payDecode_of_fits hlegal hcap
    rw [← hpayW, ← hpayH, ← hcarW, ← hcarH] at hcap
    obtain ⟨t', hexec', hwrote'⟩ := exec_payDecode_of_fits hlegal hcap
    refine ⟨t, t', hexec, hexec', ?_⟩
    rw [hpayW, hpayH] at hwrote'
    rw [hwrote.sample i j hi hj, hwrote'.sample i j hi hj, State.gatherSample_congr bps hrun]

end Sys2Proof.PayloadProofs
end

section
/-! SUPPORT. EMBED's output once the host has copied it to CIN (spec/43_embed_extract.md R121, R123): the header and the runs
it carries, and what EXTRACT and a second command make of them. -/

namespace Sys2Proof.Claims

open Sys2Proof.Machine

/-- R29, R30: a command keeps PAY_W and PAY_H, so a host that keeps them after the command keeps them from before it. -/
theorem PaySame.of_commandFrame {s t u : State} (hpay : PaySame t u) (hframe : CommandFrame s t) : PaySame s u := by
  obtain ⟨-, -, -, hpayW, hpayH, -⟩ := hframe
  exact ⟨hpay.1.trans hpayW, hpay.2.trans hpayH⟩

/-- R43: the same of the payload in PIN. -/
theorem PayloadKept.of_commandFrame {s t u : State} (hkept : PayloadKept t u) (hframe : CommandFrame s t) :
    PayloadKept s u := by
  obtain ⟨hpay, hpin⟩ := hkept
  have hpay' := hpay.of_commandFrame hframe
  obtain ⟨-, -, -, hpayW, hpayH, -, -, -, hpin', -⟩ := hframe
  rw [State.payCount, hpayW, hpayH] at hpin
  exact ⟨hpay', fun r j hr hj => (hpin r j hr hj).trans (hpin' r j)⟩

end Sys2Proof.Claims

namespace Sys2Proof.Machine

open Sys2Proof.Safety Sys2Proof.Claims

/-! ### The run geometry (R107) -/

theorem runOf_runPixel {sf k : Nat} (r : Nat) (hk : k < sf) : runOf sf (runPixel sf r k) = r := by
  rw [runOf, runPixel, Nat.add_assoc, Nat.add_sub_cancel_left]
  exact gridIndex_div r hk

theorem runPos_runPixel {sf k : Nat} (r : Nat) (hk : k < sf) : runPos sf (runPixel sf r k) = k := by
  rw [runPos, runPixel, Nat.add_assoc, Nat.add_sub_cancel_left]
  exact gridIndex_mod r hk

/-- The runs of `n` payload pixels lie in the carrier pixels `8..8+n*sf-1`. -/
theorem runPixel_range {sf r k n : Nat} (hr : r < n) (hk : k < sf) :
    8 ≤ runPixel sf r k ∧ runPixel sf r k < 8 + n * sf := by
  have hend : r * sf + k < n * sf := gridIndex_lt_of_row_lt hk hr
  show 8 ≤ 8 + r * sf + k ∧ 8 + r * sf + k < 8 + n * sf
  omega

/-! ### What a command's answer tells -/

/-- R42, R43: whatever a command answers, it keeps its inputs. -/
theorem commandFrame_of_exec {i : Instr} {s t : State} (hexec : exec i s = .next t) : CommandFrame s t := by
  obtain ⟨t', hexec', hended⟩ := exec_ended i s
  cases hexec.symm.trans hexec'
  exact hended.commandFrame

theorem not_succeeded_raise {e : ErrorKind} {d : Nat} (hmem : (e, d) ∈ errorDetails) (s : State) :
    ¬ Succeeded (s.raise e d) := by
  have hstatus : ∀ p ∈ errorDetails, statusError p.1 p.2 ≠ 0x00000002 := by decide
  exact fun ⟨h, _⟩ => hstatus _ hmem h

/-- R120: EMBED succeeds only with a legal pair on a carrier that holds header and payload. -/
theorem fits_of_embed_succeeded {bps sf : Nat} {s t : State} (hexec : exec (.embed bps sf) s = .next t)
    (hok : Succeeded t) :
    LegalPair bps sf ∧ 8 + s.payW.toNat * s.payH.toNat * sf ≤ s.carW.toNat * s.carH.toNat := by
  rcases execEmbed_cases bps sf s with ⟨hbad, h⟩ | ⟨-, -, h⟩ | ⟨hlegal, hcap, -⟩
  · cases hexec.symm.trans h
    exact absurd hok (not_succeeded_raise (checkParams_mem hbad) s)
  · cases hexec.symm.trans h
    exact absurd hok (not_succeeded_raise (by decide) s)
  · exact ⟨checkParams_eq_zero.1 hlegal, hcap⟩

/-! ### The copy of OUT to CIN -/

/-- R175: a copied carrier has the dimensions of the command that wrote it, and its samples are those the command wrote. -/
theorem WroteOut.copied {s t u : State} {f : Nat → Nat → Byte} (hwrote : WroteOut s t (s.carW.toNat * s.carH.toNat) f)
    (hcopied : CarrierCopied t u) : u.carW = s.carW ∧ u.carH = s.carH ∧
      ∀ i j, i < s.carW.toNat * s.carH.toNat → j < 3 → u.sample .cin i j = f i j := by
  obtain ⟨-, hcarW, hcarH, -⟩ := hwrote.frame
  obtain ⟨hcarW', hcarH', hcin⟩ := hcopied
  rw [State.cap, hcarW, hcarH] at hcin
  exact ⟨hcarW'.trans hcarW, hcarH'.trans hcarH, fun i j hi hj => (hcin i j hi hj).trans (hwrote.sample i j hi hj)⟩

/-- R123: CIN of `u` carries what EMBED made of the carrier and the payload of `s`. -/
structure Carries (bps sf : Nat) (s u : State) : Prop where
  legal : LegalPair bps sf
  fits : 8 + s.payW.toNat * s.payH.toNat * sf ≤ u.carW.toNat * u.carH.toNat
  header : HeaderHeld u .cin s.payW.toNat s.payH.toNat bps sf
  payload : ∀ i j, 8 ≤ i → i < 8 + s.payW.toNat * s.payH.toNat * sf → j < 3 →
    u.sample .cin i j = s.spreadSample bps sf i j

theorem carries_of_embed {bps sf : Nat} {s t u : State} (hexec : exec (.embed bps sf) s = .next t) (hok : Succeeded t)
    (hcopied : CarrierCopied t u) : Carries bps sf s u := by
  obtain ⟨hlegal, hcap⟩ := fits_of_embed_succeeded hexec hok
  have hcap8 : 8 ≤ s.carW.toNat * s.carH.toNat := (Nat.le_add_right ..).trans hcap
  obtain ⟨t', hexec', hwrote⟩ := exec_embed_of_fits hlegal hcap
  cases hexec.symm.trans hexec'
  obtain ⟨-, htcarW, htcarH, -⟩ := hwrote.frame
  have htcap8 : 8 ≤ t.cap := by rwa [State.cap, htcarW, htcarH]
  obtain ⟨hcarW, hcarH, hcin⟩ := hwrote.copied hcopied
  refine ⟨hlegal, by rwa [hcarW, hcarH], hcopied.headerHeld htcap8 (hwrote.headerHeld hlegal hcap8),
    fun i j h8 hi hj => ?_⟩
  rw [hcin i j (hi.trans_le hcap) hj, if_neg (Nat.not_lt.2 h8)]

/-- R93, R123: the header that EMBED recorded passes, since the payload it announces fits. -/
theorem Carries.headerPasses {bps sf : Nat} {s u : State} (h : Carries bps sf s u) :
    HeaderVerdict s.payW.toNat s.payH.toNat bps sf (u.carW.toNat * u.carH.toNat) 0 := by
  obtain ⟨hbps, hbps8, hsf, hsf8, hmod⟩ := h.legal
  have hfits := h.fits
  have hcount : s.payW.toNat * s.payH.toNat ≤ s.payW.toNat * s.payH.toNat * sf := Nat.le_mul_of_pos_right _ hsf
  unfold HeaderVerdict
  exact .inr (.inr (.inr (.inr (.inr (.inr (.inr ⟨hbps, hbps8, hsf, hsf8, hmod, by omega, by omega, rfl⟩))))))

/-- R123: each run gives back its payload sample with the low `8 - bps` bits zeroed. -/
theorem Carries.gatherSample {bps sf r j : Nat} {s u : State} (h : Carries bps sf s u)
    (hr : r < s.payW.toNat * s.payH.toNat) (hj : j < 3) :
    u.gatherSample bps sf r j = s.sample .pin r j &&& ((0xFF : Byte) <<< (8 - bps)) := by
  have hrun : ∀ k < sf, u.sample .cin (runPixel sf r k) j =
      encChannel (bitsPerPixel bps sf) (s.sample .cin (runPixel sf r k) j) (s.sample .pin r j) k := by
    intro k hk
    obtain ⟨h8, hend⟩ := runPixel_range hr hk
    rw [h.payload _ j h8 hend hj, State.spreadSample, runOf_runPixel r hk, runPos_runPixel r hk,
      if_pos (show r < s.payCount from hr)]
  rw [State.gatherSample, List.map_congr_left fun k hk => hrun k (List.mem_range.1 hk)]
  exact gather_encChannel h.legal _ fun k => s.sample .cin (runPixel sf r k) j

/-! ### Commands on the copied carrier -/

/-- R122: EXTRACT on a carrier whose header passes. -/
theorem exec_extract_of_held {w h b s : Nat} {st : State} (x y : Nat) (hcap : 8 ≤ st.carW.toNat * st.carH.toNat)
    (hheld : HeaderHeld st .cin w h b s) (hpass : HeaderVerdict w h b s (st.carW.toNat * st.carH.toNat) 0) :
    ∃ t, exec (.extract x y) st = .next t ∧ Succeeded t ∧ HdrHolds t w h b s ∧
      ∀ r j, r < w * h → j < 3 → t.sample .out r j = st.gatherSample b s r j := by
  have hexec := exec_extract_of_passes x y hcap (State.headerDetail_of_held hheld hpass)
  have hhdr := State.hdrHolds_loadHeader hheld
  obtain ⟨rfl, rfl, rfl, rfl⟩ := headerHeld_cin_iff.1 hheld
  refine ⟨_, hexec, ⟨rfl, rfl⟩, hhdr, fun r j hr hj => ?_⟩
  rw [State.sample_complete, State.sample_out_writeOut _ _ _ _ hj, if_pos hr]

theorem Carries.exec_extract {bps sf : Nat} {s u : State} (h : Carries bps sf s u) (x y : Nat) :
    ∃ v, exec (.extract x y) u = .next v ∧ Succeeded v ∧ HdrHolds v s.payW.toNat s.payH.toNat bps sf ∧
      ∀ r j, r < s.payW.toNat * s.payH.toNat → j < 3 → v.sample .out r j = u.gatherSample bps sf r j :=
  exec_extract_of_held x y ((Nat.le_add_right ..).trans h.fits) h.header h.headerPasses

/-- R117, R121: a carrier sample is spread alike in a state that keeps the payload and that sample. -/
theorem State.spreadSample_of_payloadKept {s u : State} (hkept : PayloadKept s u) (bps : Nat) {sf i j : Nat} (hj : j < 3)
    (hcin : u.sample .cin i j = s.sample .cin i j) : u.spreadSample bps sf i j = s.spreadSample bps sf i j := by
  obtain ⟨hpay, hpin⟩ := hkept
  by_cases hrun : (i - 8) / sf < s.payW.toNat * s.payH.toNat
  · exact State.spreadSample_congr hpay bps hcin (hpin _ j hrun hj)
  · obtain ⟨hpayW, hpayH⟩ := hpay
    have hexhausted := Nat.le_of_not_lt hrun
    rw [s.spreadSample_of_exhausted bps j hexhausted, u.spreadSample_of_exhausted bps j (by rwa [hpayW, hpayH]), hcin]

/-! ### Zeroed low bits -/

/-- R123: zeroing the low `n` bits keeps a sample exactly when they were 0. -/
theorem and_highMask_eq_self_iff (v : Byte) (n : Nat) : v &&& ((0xFF : Byte) <<< n) = v ↔ v.toNat % 2 ^ n = 0 := by
  have hle : v.toNat / 2 ^ n * 2 ^ n ≤ v.toNat := Nat.div_mul_le_self ..
  have hzeroed : (v &&& ((0xFF : Byte) <<< n)).toNat = v.toNat / 2 ^ n * 2 ^ n := by
    rw [show (0xFF : Byte) = BitVec.allOnes 8 from rfl, ← BitVec.shiftLeft_ushiftRight, BitVec.toNat_shiftLeft,
      BitVec.toNat_ushiftRight, Nat.shiftRight_eq_div_pow, Nat.shiftLeft_eq, Nat.mod_eq_of_lt (hle.trans_lt v.isLt)]
  rw [← BitVec.toNat_inj, hzeroed, ← Nat.dvd_iff_div_mul_eq, Nat.dvd_iff_mod_eq_zero]

end Sys2Proof.Machine
end

section
/-! The obligations of spec/43_embed_extract.md. -/

namespace Sys2Proof.EmbedProofs

open Sys2Proof.Machine Sys2Proof.Claims

/-- Settles O12: the two sides of the capacity check. -/
theorem embedCapacityBoundary : Obligations.EmbedCapacityBoundary := by
  unfold Obligations.EmbedCapacityBoundary
  intro bps sf s hlegal
  refine ⟨fun hexact => ?succeeds, fun hfewer => failsClean_embed_of_small hlegal (by omega)⟩
  case succeeds =>
    obtain ⟨t, hexec, hwrote⟩ := exec_embed_of_fits hlegal hexact.ge
    exact ⟨t, hexec, hwrote.succeeded⟩

/-- Settles O32: pixels 0..7 are the overlay that PAY_ENCODE copies, from pixel 8 on HDR_WRITE has copied the carrier, and no
command writes OUT beyond it. -/
theorem embedIsHeaderThenPayload : Obligations.EmbedIsHeaderThenPayload := by
  unfold Obligations.EmbedIsHeaderThenPayload
  intro bps sf s hlegal hcap
  obtain ⟨t, hexec, hwrote⟩ := exec_hdrWrite_of_legal hlegal ((Nat.le_add_right ..).trans hcap)
  obtain ⟨e, hexec', hwrote'⟩ := exec_embed_of_fits hlegal hcap
  refine ⟨t, e, hexec, hwrote.succeeded, hexec', hwrote'.succeeded, fun u hcopied hkept => ?_⟩
  obtain ⟨hcarW, hcarH, hcin⟩ := hwrote.copied hcopied
  obtain ⟨v, hexec'', hwrote''⟩ := exec_payEncode_of_legal u hlegal
  rw [hcarW, hcarH] at hwrote''
  have hcarrier : ∀ i j, i < s.carW.toNat * s.carH.toNat → j < 3 → v.sample .out i j = e.sample .out i j := by
    intro i j hi hj
    have hcin := hcin i j hi hj
    rw [hwrote''.sample i j hi hj, hwrote'.sample i j hi hj]
    by_cases h8 : i < 8
    · simp only [if_pos h8] at hcin ⊢
      exact hcin
    · simp only [if_neg h8] at hcin ⊢
      exact State.spreadSample_of_payloadKept (hkept.of_commandFrame hwrote.frame) bps hj hcin
  refine ⟨v, hexec'', hwrote''.succeeded, hcarrier, fun hout i j hj => ?_⟩
  by_cases hi : i < s.carW.toNat * s.carH.toNat
  · exact hcarrier i j hi hj
  · have hi := Nat.le_of_not_lt hi
    rw [hwrote''.beyond i j hj hi, hout i j hj, hwrote.beyond i j hj hi, hwrote'.beyond i j hj hi]

/-- Settles O33: the recorded header passes, and each run gives back its sample without the low bits. -/
theorem embedThenExtractRecovers : Obligations.EmbedThenExtractRecovers := by
  unfold Obligations.EmbedThenExtractRecovers
  intro bps sf x y s t u hexec hok hcopied
  have hcarries := carries_of_embed hexec hok hcopied
  obtain ⟨v, hextract, hdone, hhdr, hout⟩ := hcarries.exec_extract x y
  refine ⟨v, hextract, hdone, hhdr, fun r j hr hj => ?_⟩
  rw [hout r j hr hj, hcarries.gatherSample hr hj]
  exact ⟨rfl, and_highMask_eq_self_iff _ _⟩

/-- Settles O34: both commands gather the same runs, EXTRACT by the recorded header and PAY_DECODE by PAY_W and PAY_H. -/
theorem payDecodeAgreesWithExtract : Obligations.PayDecodeAgreesWithExtract := by
  unfold Obligations.PayDecodeAgreesWithExtract
  intro bps sf x y s t u hexec hok hcopied hpay
  have hcarries := carries_of_embed hexec hok hcopied
  obtain ⟨v', hextract, hdone', -, hout'⟩ := hcarries.exec_extract x y
  obtain ⟨hpayW, hpayH⟩ := hpay.of_commandFrame (commandFrame_of_exec hexec)
  obtain ⟨v, hdecode, hwrote⟩ := exec_payDecode_of_fits hcarries.legal (by rw [hpayW, hpayH]; exact hcarries.fits)
  rw [hpayW, hpayH] at hwrote
  refine ⟨v, v', hdecode, hextract, hwrote.succeeded, hdone', fun r j hr hj => ?_⟩
  rw [hwrote.sample r j hr hj, hout' r j hr hj]

end Sys2Proof.EmbedProofs
end

section
/-! SUPPORT. The parameter check (spec/60_exceptions.md R133, R134), and what a command does to the state once its inputs are
known (R135). -/

namespace Sys2Proof.Machine

open Sys2Proof.Claims

/-! ### The parameter check -/

/-- R133: the list of the spec. -/
def legalPairs : List (Nat × Nat) :=
  [(1,1), (2,1), (2,2), (3,1), (3,3), (4,1), (4,2), (4,4), (5,1), (5,5), (6,1), (6,2), (6,3), (6,6),
    (7,1), (7,7), (8,1), (8,2), (8,4), (8,8)]

theorem legalPairs_eq_filter :
    legalPairs = (List.range 9 ×ˢ List.range 9).filter (fun p => checkParams p.1 p.2 = 0) := by decide

theorem mem_legalPairs_iff {bps sf : Nat} : (bps, sf) ∈ legalPairs ↔ checkParams bps sf = 0 := by
  have hrange : checkParams bps sf = 0 → bps < 9 ∧ sf < 9 := by
    intro h
    obtain ⟨-, hbps, -, hsf, -⟩ := checkParams_eq_zero.1 h
    exact ⟨Nat.lt_succ_of_le hbps, Nat.lt_succ_of_le hsf⟩
  simpa [legalPairs_eq_filter] using hrange

/-- R133: the check answers the DETAIL of the first condition that fails. -/
theorem checkParams_of_paramDetail {bps sf d : Nat} (h : ParamDetail bps sf d) : checkParams bps sf = d ∧ d ≠ 0 := by
  unfold checkParams
  rcases h with ⟨hbps, rfl⟩ | ⟨hbps, hsf, rfl⟩ | ⟨hbps, hsf, hmod, rfl⟩
  · rw [if_pos hbps]; decide
  · rw [if_neg (by omega), if_pos hsf]; decide
  · rw [if_neg (by omega), if_neg (by omega), if_pos hmod]; decide

/-! ### A command's effect -/

/-- The five shapes of `Ended`, each as an update that does not yet name its state. -/
inductive Effect where
  | fail (e : ErrorKind) (d : Nat)
  | failHeader (d : Nat)
  | write (n : Nat) (f : Nat → Nat → Byte)
  | readHeader
  | extract (n : Nat) (f : Nat → Nat → Byte)

/-- The state an effect leaves. -/
def Effect.apply : Effect → State → State
  | .fail e d, s => s.raise e d
  | .failHeader d, s => s.loadHeader.raise .headerInvalid d
  | .write n f, s => (s.writeOut n f).complete
  | .readHeader, s => s.loadHeader.complete
  | .extract n f, s => (s.loadHeader.writeOut n f).complete

theorem State.writeOut_complete_twice (s : State) (n : Nat) (f : Nat → Nat → Byte) :
    ((s.writeOut n f).complete.writeOut n f).complete = (s.writeOut n f).complete := by
  simp only [State.writeOut, State.complete, Memory.fill_fill]

/-- The registers take the same values again, and OUT the same samples. -/
theorem Effect.apply_apply (a : Effect) (s : State) : a.apply (a.apply s) = a.apply s := by
  cases a with
  | fail e d => rfl
  | failHeader d => rfl
  | write n f => exact s.writeOut_complete_twice n f
  | readHeader => rfl
  | extract n f => exact s.loadHeader.writeOut_complete_twice n f

/-- The state with the inputs of `s` and, in all that a command can write, the values of `o`. -/
def State.withOutputs (s o : State) : State :=
  { s with
    status := o.status, hdrW := o.hdrW, hdrH := o.hdrH, hdrParams := o.hdrParams, phase := o.phase, out := o.out }

theorem withOutputs_of_commandFrame {s t : State} (h : CommandFrame s t) : s.withOutputs t = t := by
  obtain ⟨hcmd, hcarW, hcarH, hpayW, hpayH, hcin, hpin, -, -, hagenda, hnotes, hepoch, hdraws⟩ := h
  simp only [State.withOutputs, ← hcmd, ← hcarW, ← hcarH, ← hpayW, ← hpayH, ← hcin, ← hpin, ← hagenda, ← hnotes, ← hepoch,
    ← hdraws]

/-- R42 to R44, R63: the inputs alone fix a command's effect: no command reads what a command writes. -/
theorem exists_effect (i : Instr) (s : State) :
    ∃ a : Effect, exec i s = .next (a.apply s) ∧ ∀ o, exec i (s.withOutputs o) = .next (a.apply (s.withOutputs o)) := by
  cases i with
  | hdrWrite bps sf =>
    rcases execHdrWrite_cases bps sf s with ⟨hbad, hexec⟩ | ⟨hok, hsmall, hexec⟩ | ⟨hok, hcap, hexec⟩
    · exact ⟨.fail _ _, hexec, fun o => if_pos hbad⟩
    · exact ⟨.fail _ _, hexec, fun o => (if_neg (not_not.2 hok)).trans (if_pos hsmall)⟩
    · exact ⟨.write _ _, hexec, fun o => (if_neg (not_not.2 hok)).trans (if_neg hcap.not_gt)⟩
  | hdrRead bps sf =>
    rcases execHdrRead_cases bps sf s with ⟨hshort, hexec⟩ | ⟨hcap, hbad, hexec⟩ | ⟨hcap, hpass, hexec⟩
    · exact ⟨.fail _ _, hexec, fun o => if_pos hshort⟩
    · exact ⟨.failHeader _, hexec, fun o => (if_neg hcap.not_gt).trans (if_pos hbad)⟩
    · exact ⟨.readHeader, hexec, fun o => (if_neg hcap.not_gt).trans (if_neg (not_not.2 hpass))⟩
  | payEncode bps sf =>
    rcases execPayEncode_cases bps sf s with ⟨hbad, hexec⟩ | ⟨hok, hexec⟩
    · exact ⟨.fail _ _, hexec, fun o => if_pos hbad⟩
    · exact ⟨.write _ _, hexec, fun o => if_neg (not_not.2 hok)⟩
  | payDecode bps sf =>
    rcases execPayDecode_cases bps sf s with ⟨hbad, hexec⟩ | ⟨hok, hsmall, hexec⟩ | ⟨hok, hcap, hexec⟩
    · exact ⟨.fail _ _, hexec, fun o => if_pos hbad⟩
    · exact ⟨.fail _ _, hexec, fun o => (if_neg (not_not.2 hok)).trans (if_pos hsmall)⟩
    · exact ⟨.write _ _, hexec, fun o => (if_neg (not_not.2 hok)).trans (if_neg hcap.not_gt)⟩
  | embed bps sf =>
    rcases execEmbed_cases bps sf s with ⟨hbad, hexec⟩ | ⟨hok, hsmall, hexec⟩ | ⟨hok, hcap, hexec⟩
    · exact ⟨.fail _ _, hexec, fun o => if_pos hbad⟩
    · exact ⟨.fail _ _, hexec, fun o => (if_neg (not_not.2 hok)).trans (if_pos hsmall)⟩
    · exact ⟨.write _ _, hexec, fun o => (if_neg (not_not.2 hok)).trans (if_neg hcap.not_gt)⟩
  | extract bps sf =>
    rcases execExtract_cases bps sf s with ⟨hshort, hexec⟩ | ⟨hcap, hbad, hexec⟩ | ⟨hcap, hpass, hexec⟩
    · exact ⟨.fail _ _, hexec, fun o => if_pos hshort⟩
    · exact ⟨.failHeader _, hexec, fun o => (if_neg hcap.not_gt).trans (if_pos hbad)⟩
    · exact ⟨.extract _ _, hexec, fun o => (if_neg hcap.not_gt).trans (if_neg (not_not.2 hpass))⟩

/-! ### The engine's turn while IDLE -/

/-- R146: while IDLE the engine's turn does nothing. -/
theorem step_of_idle {s : State} (h : EngineNext s) (hidle : s.phase = .idle) : step s = .next s.popAgenda := by
  rcases h with ha | ⟨rest, ha⟩
  · simp [step, stepAgenda, ha, engineTurn, hidle, State.popAgenda_of_nil ha]
  · simp [step, stepAgenda, ha, engineTurn, hidle]

end Sys2Proof.Machine
end

section
/-! The obligations of spec/60_exceptions.md. -/

namespace Sys2Proof.ExceptionProofs

open Sys2Proof.Machine Sys2Proof.Claims

/-! ### InvalidParameters -/

/-- Settles O9: a legal pair has both fields up to 8, and of those the list holds the legal ones. -/
theorem legalPairsAreTheTwenty : Obligations.LegalPairsAreTheTwenty := by
  unfold Obligations.LegalPairsAreTheTwenty
  intro bps sf
  exact mem_legalPairs_iff.symm

/-- Settles O10: each of the four commands checks the pair first and raises with nothing written before. -/
theorem illegalPairsFail : Obligations.IllegalPairsFail := by
  unfold Obligations.IllegalPairsFail
  intro bps sf d s hdetail
  obtain ⟨rfl, hbad⟩ := checkParams_of_paramDetail hdetail
  have hfails : ∀ i : Instr, exec i s = .next (s.raise .invalidParameters (checkParams bps sf)) →
      FailsClean i s 1 (checkParams bps sf) := fun _ => failsClean_of_raise (checkParams_mem hbad)
  exact ⟨hfails _ (if_pos hbad), hfails _ (if_pos hbad), hfails _ (if_pos hbad), hfails _ (if_pos hbad)⟩

/-! ### The same command again -/

/-- Settles O35: the command keeps its inputs, so it has the same effect again, and the effect twice is the effect once. -/
theorem repeatedCommandRepeats : Obligations.RepeatedCommandRepeats := by
  unfold Obligations.RepeatedCommandRepeats
  intro i s t hexec
  obtain ⟨a, hs, houtputs⟩ := exists_effect i s
  have ht : s.withOutputs t = t := withOutputs_of_commandFrame (commandFrame_of_exec hexec)
  have hst : a.apply s = t := by cases hs.symm.trans hexec; rfl
  calc exec i t = .next (a.apply t) := by simpa only [ht] using houtputs t
    _ = .next t := by rw [← hst, a.apply_apply]

/-! ### Leaving IDLE -/

/-- Settles O53: of all that a step can do, the engine's turn and a reset end in IDLE, an accepted CMD write sets BUSY, and
everything else keeps the phase. -/
theorem leavesIdleOnlyByCmdWrite : Obligations.LeavesIdleOnlyByCmdWrite := by
  unfold Obligations.LeavesIdleOnlyByCmdWrite
  intro s t hstep hidle hbusy
  rcases step_control_cases hstep with ⟨-, hbusy', -, -⟩ | ⟨w, hnext, -, rfl⟩ | hsame | ⟨-, rfl⟩
  · simp [hidle] at hbusy'
  · exact ⟨hnext, rfl⟩
  · simp [hsame.phase, hidle] at hbusy
  · simp at hbusy

/-- Settles O52: with nothing to come the engine has the turn, and an IDLE engine does nothing. -/
theorem idleBlockWaits : Obligations.IdleBlockWaits := by
  unfold Obligations.IdleBlockWaits
  intro s hnil hidle
  rw [step_of_idle (.inl hnil) hidle, State.popAgenda_of_nil hnil]

end Sys2Proof.ExceptionProofs
end

section
/-! SUPPORT. What a host operation leaves unchanged of the model's own fields, and the end of a run told from the agenda
(spec/70_reset_and_hazards.md R181). -/

namespace Sys2Proof.Machine

theorem State.epoch_writeOffset (s : State) (off : Nat) (w : Word) : (s.writeOffset off w).epoch = s.epoch := by
  cases hr : regAt off with
  | none => simp [State.writeOffset, hr]
  | some r =>
    obtain rfl := regAt_eq_some_iff.1 hr
    rw [State.writeOffset_offset]
    rcases s.writeReg_cases r w with ⟨-, e⟩ | ⟨-, -, e⟩ | ⟨-, -, e⟩ | ⟨-, -, e⟩ | ⟨-, -, e⟩ | ⟨-, -, e⟩ | ⟨-, -, e⟩
    all_goals simp [e]

/-- R160: no host operation is a reset. -/
theorem hostStep_epoch {op : HostOp} {s t : State} (h : hostStep op s = .next t) : t.epoch = s.epoch := by
  rcases hostStep_cases h with ⟨off, w, -, -, rfl⟩ | ⟨off, -, -, rfl⟩ | ⟨b, i, px, -, -, rfl⟩ | ⟨b, i, -, -, rfl⟩ |
    ⟨i, -, -, rfl⟩ | ⟨-, rfl⟩
  · exact s.epoch_writeOffset off w
  all_goals simp

/-- R86: with BUSY clear no host operation puts anything on the agenda, since a poll of `wait` is then the last. -/
theorem hostStep_agenda_of_not_busy {op : HostOp} {s t : State} (h : hostStep op s = .next t)
    (hclear : statusBusy s.status = false) : t.agenda = s.agenda := by
  rcases hostStep_cases h with ⟨off, w, -, -, rfl⟩ | ⟨off, -, -, rfl⟩ | ⟨b, i, px, -, -, rfl⟩ | ⟨b, i, -, -, rfl⟩ |
    ⟨i, -, -, rfl⟩ | ⟨-, rfl⟩
  · exact s.agenda_writeOffset off w
  all_goals simp [hclear]

end Sys2Proof.Machine

namespace Sys2Proof.Safety

open Sys2Proof.Machine Sys2Proof.Claims

/-- R35: while IDLE the BUSY bit is clear. -/
theorem Inv.statusBusy_of_idle {s : State} (h : Inv s) (hidle : s.phase = .idle) : statusBusy s.status = false := by
  rw [← Bool.not_eq_true, ← h.phaseMirrored, hidle]
  decide

/-- R181, in the words of the agenda. -/
theorem runEnded_iff_noHostLeft (s : State) : RunEnded s ↔ NoHostLeft s.agenda ∧ s.phase = .idle := by
  rw [runEnded_iff, s.hostDone_iff, NoHostLeft]

theorem not_runEnded_of_busy {s : State} (h : s.phase = .busy) : ¬ RunEnded s := by
  simp [runEnded_iff_noHostLeft, h]

theorem not_runEnded_of_hostNext {s : State} {op : HostOp} (h : HostNext s op) : ¬ RunEnded s := by
  obtain ⟨rest, ha⟩ := h
  rw [runEnded_iff_noHostLeft]
  rintro ⟨hnone, -⟩
  exact hnone op (by simp [ha])

/-- R181: the engine step that completes the command ends the run when the host has executed its last statement. -/
theorem exists_runEndsIn_of_engineNext {s : State} (hnone : NoHostLeft s.agenda) (hnext : EngineNext s)
    (hbusy : s.phase = .busy) : ∃ t, step s = .next t ∧ RunEndsIn 1 s t := by
  obtain ⟨t, hst, hended⟩ := step_ended hnext hbusy
  obtain ⟨-, -, -, -, -, -, -, -, -, hagenda, -, hepoch, -⟩ := hended.commandFrame
  have htnone : NoHostLeft t.agenda := by
    rw [hagenda, State.popAgenda_agenda]
    exact fun op hop => hnone op (List.mem_of_mem_tail hop)
  exact ⟨t, hst, .of_step (not_runEnded_of_busy hbusy) hst ((runEnded_iff_noHostLeft t).2 ⟨htnone, hended.phase⟩) hepoch⟩

/-- R181: the host's last statement ends the run when it is executed while IDLE and leaves the engine IDLE. -/
theorem runEndsIn_of_last_hostOp {s t : State} {op : HostOp} {rest : List Event} (hinv : Inv s) (hidle : s.phase = .idle)
    (ha : s.agenda = .host op :: rest) (hnone : NoHostLeft rest) (hst : step s = .next t) (htidle : t.phase = .idle) :
    RunEndsIn 1 s t := by
  have hop : hostStep op s.popAgenda = .next t := (step_of_hostNext ⟨rest, ha⟩).symm.trans hst
  have htAgenda : t.agenda = rest :=
    calc t.agenda = s.popAgenda.agenda := hostStep_agenda_of_not_busy hop (hinv.statusBusy_of_idle hidle)
      _ = rest := by simp [ha]
  have hepoch : t.epoch = s.epoch := (hostStep_epoch hop).trans s.popAgenda_epoch
  exact .of_step (not_runEnded_of_hostNext ⟨rest, ha⟩) hst
    ((runEnded_iff_noHostLeft t).2 ⟨htAgenda.symm ▸ hnone, htidle⟩) hepoch

end Sys2Proof.Safety

namespace Sys2Proof.Machine

/-- R181: each backed pixel of a buffer is observed with its three samples. -/
theorem State.getElem?_pixels_of_lt (s : State) (b : BufId) {n i : Nat} (h : i < n) :
    (s.pixels b n)[i]? = some ⟨s.sample b i 0, s.sample b i 1, s.sample b i 2⟩ := by
  rw [State.getElem?_pixels, if_pos h, State.pixel]

/-- R181: once IDLE, the register file as observed is what a host would read. -/
theorem State.mem_observe_regs_iff_readOffset {s : State} (hidle : s.phase = .idle) (nCin nPin nOut : Nat) (r : RegName)
    (w : Word) : (r, w) ∈ (s.observe nCin nPin nOut).regs ↔ w = s.readOffset r.offset := by
  rw [State.mem_observe_regs, State.readOffset_offset (.inr hidle)]

end Sys2Proof.Machine
end

section
/-! The end of a run (spec/70_reset_and_hazards.md R181). -/

namespace Sys2Proof.HazardProofs

open Sys2Proof.Machine Sys2Proof.Safety Sys2Proof.Claims

/-- Settles O60: the completing engine step and the host's last operation while IDLE leave no host operation on the agenda, and
what is observed then is the registers as read and the pixels of the buffers. -/
theorem runEndsAndIsObserved : Obligations.RunEndsAndIsObserved := by
  unfold Obligations.RunEndsAndIsObserved
  refine ⟨fun s => exists_runEndsIn_of_engineNext, fun s t op rest => runEndsIn_of_last_hostOp,
    fun s nCin nPin nOut hend => ?observed⟩
  case observed =>
    obtain ⟨-, hidle⟩ := (runEnded_iff s).1 hend
    exact ⟨State.mem_observe_regs_iff_readOffset hidle nCin nPin nOut, fun i => s.getElem?_pixels_of_lt .cin,
      fun i => s.getElem?_pixels_of_lt .pin, fun i => s.getElem?_pixels_of_lt .out⟩

end Sys2Proof.HazardProofs
end
